-- ==== Sys2Proof/Word.lean ====
section
/-!
DEFINITION. The words of the block (00_scope.md R6 to R8). The widths are fixed by the spec: WIDTH = 8,
CMD_WIDTH = 16, RSP_WIDTH = 16 (R7). Bit 0 is the least significant bit.
-/

namespace Sys2Proof

/-- Every register, operand and input byte (R6: WIDTH = 8). -/
abbrev Byte := BitVec 8

/-- One command word on the command port (R7: CMD_WIDTH = 16; 30_encoding.md R60). -/
abbrev CmdWord := BitVec 16

/-- One response word (R7: RSP_WIDTH = 16; 30_encoding.md R68). -/
abbrev RspWord := BitVec 16

/-- The custom recipe encoding `IIPPRRXX` as one 32-bit value (20_memory.md R44, 30_encoding.md R69). -/
abbrev RecipeWord := BitVec 32

end Sys2Proof
end

