-- ==== Sys2Proof/Machine/State.lean ====
section
/-!
DEFINITION. The state of one instance of the block (10_state.md R20), with the two sides of its command
port, and its state after reset (R33).
-/

namespace Sys2Proof.Machine

/-- MODE, the bit-reflection selector (R23). -/
inductive Mode where
  /-- 0: left shift, test bit 7. -/
  | normal
  /-- 1: right shift, test bit 0. -/
  | reflected
  deriving DecidableEq, Repr

/-- PHASE, the lifecycle of the recipe (R25). -/
inductive Phase where
  /-- 0: not yet normalized. -/
  | raw
  /-- 1: normalized. -/
  | ready
  deriving DecidableEq, Repr

/-- The command errors (60_exceptions.md R141). They stop nothing: see `raiseCmdError`. -/
inductive CmdError where
  /-- Code 1, raised by decode: the opcode is not in the opcode map. -/
  | illegalOpcode
  /-- Code 2, raised by UPD while PHASE = RAW. -/
  | notReady
  /-- Code 3, raised by NORM while PHASE = READY. -/
  | alreadyReady
  /-- Code 4, raised by NOP, NORM, FIN, CLRERR, LDMODE and RD on a reserved operand. -/
  | badOperand
  deriving DecidableEq, Repr

/-- What the outside world does at the port (92 D1, 70_reset_and_hazards.md R160). -/
inductive PortEvent where
  /-- The host presents a command word and waits for its response. -/
  | command (word : CmdWord)
  /-- Reset is asserted; `inFlight` is the word accepted and not yet answered at that moment, if any. -/
  | reset (inFlight : Option CmdWord)
  deriving DecidableEq, Repr

/-- The whole machine: R20's tuple, then the port's two sides. -/
structure State where
  /-- CRC (R21). -/
  crc : Byte
  /-- POLY (R22). -/
  poly : Byte
  /-- XOROUT (R24). -/
  xorout : Byte
  /-- MODE (R23). -/
  mode : Mode
  /-- PHASE (R25). -/
  phase : Phase
  /-- ERR, the sticky command-error flag (R26). -/
  err : Bool
  /-- ERRCODE, the cause of the first recorded error (R26). -/
  errcode : BitVec 3
  /-- The host's side of the port: what it presents next, oldest first (R30). DESIGN CHOICE, log entry 1. -/
  pending : List PortEvent
  /-- The block's side of the port: the words it has answered, oldest first (R49, 30_encoding.md R68).
  DESIGN CHOICE, log entry 1. -/
  responses : List RspWord
  deriving DecidableEq, Repr

/-- The reasons the machine stops: none. The block has no trap and no stuck state, and its operations
never fail (60_exceptions.md R140, R146). -/
inductive Fault where
  deriving DecidableEq, Repr

/-- The reasons the model gives no meaning. -/
inductive Refusal where
  /-- Raised by an arm of `exec` whose command has no meaning yet: by none. Safe: the model stops. -/
  | notModelled (mnemonic : String)
  deriving DecidableEq, Repr

/-- The machine right after reset (R33). The host has presented nothing and the block has answered nothing
(DESIGN CHOICE, log entry 1). -/
def State.reset : State where
  crc := 0x00#8
  poly := 0x00#8
  xorout := 0x00#8
  mode := .normal
  phase := .raw
  err := false
  errcode := 0#3
  pending := []
  responses := []

end Sys2Proof.Machine
end

