-- ==== Sys2Proof/Machine/Flags.lean ====
section
/-!
DEFINITION. The read-only views of the state: STATUS (10_state.md R27), FLAG (R28), the test mask of MODE
(R23), and the codes of the command errors (60_exceptions.md R141).
-/

namespace Sys2Proof.Machine

/-- REFL, bit 1 of STATUS: MODE as a bit (R20, R27). -/
def Mode.bit : Mode → BitVec 1
  | .normal => 0#1
  | .reflected => 1#1

/-- READY, bit 0 of STATUS: PHASE as a bit (R20, R27). -/
def Phase.bit : Phase → BitVec 1
  | .raw => 0#1
  | .ready => 1#1

/-- STATUS (R27): two reserved zeros, ERRCODE, ERR, REFL, READY, from bit 7 down to bit 0. -/
def statusOf (s : State) : Byte :=
  0#2 ++ s.errcode ++ BitVec.ofBool s.err ++ s.mode.bit ++ s.phase.bit

/-- FLAG (R28): the source's flag byte, raw or normalized according to PHASE. -/
def flagOf (s : State) : Byte :=
  match s.phase, s.mode with
  | .raw, .normal => 0x00#8
  | .raw, .reflected => 0x01#8
  | .ready, .normal => 0x80#8
  | .ready, .reflected => 0x01#8

/-- The mask of the bit each iteration of update tests (R23). -/
def Mode.testMask : Mode → Byte
  | .normal => 0x80#8
  | .reflected => 0x01#8

/-- The shift of one iteration of update (R23; 00_scope.md R9: the bit shifted in is 0). -/
def Mode.shift : Mode → Byte → Byte
  | .normal, w => w <<< 1
  | .reflected, w => w >>> 1

/-- ERRCODE's value for an error (R141). -/
def CmdError.code : CmdError → BitVec 3
  | .illegalOpcode => 1#3
  | .notReady => 2#3
  | .alreadyReady => 3#3
  | .badOperand => 4#3

end Sys2Proof.Machine
end

