-- ==== Sys2Proof/Machine/Crc.lean ====
section
/-!
DEFINITION. The pure functions of the engine: bit reversal (40_normalize.md R80), one iteration and one
byte of update (41_update.md R100), and the bulk fold (R103).
-/

namespace Sys2Proof.Machine

/-- `rev8` (R80): bit 0 of `v` becomes bit 7 of the result, and so on. -/
def rev8 (v : Byte) : Byte :=
  BitVec.ofBool (v.getLsbD 0) ++ BitVec.ofBool (v.getLsbD 1) ++ BitVec.ofBool (v.getLsbD 2)
    ++ BitVec.ofBool (v.getLsbD 3) ++ BitVec.ofBool (v.getLsbD 4) ++ BitVec.ofBool (v.getLsbD 5)
    ++ BitVec.ofBool (v.getLsbD 6) ++ BitVec.ofBool (v.getLsbD 7)

/-- The tested bit of one iteration is 1 (R23, R100). -/
def testedBit (mode : Mode) (w : Byte) : Bool := w &&& mode.testMask != 0x00#8

/-- `crcStep` (R100): test, then shift, then XOR the polynomial into the shifted value if the tested bit
was 1. -/
def crcStep (w poly : Byte) (mode : Mode) : Byte :=
  if testedBit mode w then mode.shift w ^^^ poly else mode.shift w

/-- `repeat n: w <- crcStep(w)` (00_scope.md R10). -/
def crcSteps : Nat → Byte → Byte → Mode → Byte
  | 0, w, _, _ => w
  | n + 1, w, poly, mode => crcSteps n (crcStep w poly mode) poly mode

/-- `crcByte` (R100): the byte is XORed in, then eight iterations with the same polynomial and mode. -/
def crcByte (crc poly : Byte) (mode : Mode) (b : Byte) : Byte :=
  crcSteps 8 (crc ^^^ b) poly mode

/-- `bulk` (R103): crcByte over a byte sequence, first byte first. -/
def bulk (crc poly : Byte) (mode : Mode) : List Byte → Byte
  | [] => crc
  | b :: bs => bulk (crcByte crc poly mode b) poly mode bs

end Sys2Proof.Machine
end

