-- ==== Sys2Proof/Syntax.lean ====
section
/-!
DEFINITION. The commands of the block: one constructor per row of the opcode map (30_encoding.md R62).
Every command carries its operand byte `imm` as it stands in bits 7:0 of the command word (R61), the
reserved operand of NOP, NORM, FIN and CLRERR too: it is the command's own pseudocode that rejects a
reserved value (R64).
-/

namespace Sys2Proof

inductive Instr where
  /-- 0x00, no operation (R130). -/
  | nop (imm : Byte)
  /-- 0x01, load the seed (R82). -/
  | ldinit (imm : Byte)
  /-- 0x02, load the polynomial (R83). -/
  | ldpoly (imm : Byte)
  /-- 0x03, load the raw reflect flag (R84). -/
  | ldrefl (imm : Byte)
  /-- 0x04, load the XOR-out mask (R85). -/
  | ldxor (imm : Byte)
  /-- 0x05, load a pre-normalized reflection mode (R86). -/
  | ldmode (imm : Byte)
  /-- 0x10, normalize (R81). -/
  | norm (imm : Byte)
  /-- 0x20, update with one byte (R102). -/
  | upd (imm : Byte)
  /-- 0x30, finish (R120). -/
  | fin (imm : Byte)
  /-- 0x40, read a register (R131). -/
  | rd (imm : Byte)
  /-- 0x50, clear the error record (R132). -/
  | clrerr (imm : Byte)
  deriving DecidableEq, Repr

end Sys2Proof
end

