-- ==== Sys2Proof/Decode.lean ====
section
/-!
DEFINITION. The decoder of 30_encoding.md R60 to R66, total on every 16-bit word, and the encoder.
`op` alone selects the command; the operand is not looked at here (R62, R66).
-/

namespace Sys2Proof

/-- The field `op`, bits 15:8 (R60). -/
def opField (w : CmdWord) : Byte := w.extractLsb' 8 8

/-- The field `imm`, bits 7:0 (R60). -/
def immField (w : CmdWord) : Byte := w.extractLsb' 0 8

/-- A command word from its two fields (R60). -/
def cmdWord (op imm : Byte) : CmdWord := op ++ imm

/-- Why the decoder has no command for a word. -/
inductive DecodeError where
  /-- `op` is not in the opcode map (R63); the step answers it with CmdError(ILLEGAL_OPCODE). -/
  | illegalOpcode (op : Byte)
  deriving DecidableEq, Repr

/-- The decode pseudocode of R63, over the map of R62. -/
def decode (w : CmdWord) : Except DecodeError Instr :=
  match opField w with
  | 0x00#8 => .ok (.nop (immField w))
  | 0x01#8 => .ok (.ldinit (immField w))
  | 0x02#8 => .ok (.ldpoly (immField w))
  | 0x03#8 => .ok (.ldrefl (immField w))
  | 0x04#8 => .ok (.ldxor (immField w))
  | 0x05#8 => .ok (.ldmode (immField w))
  | 0x10#8 => .ok (.norm (immField w))
  | 0x20#8 => .ok (.upd (immField w))
  | 0x30#8 => .ok (.fin (immField w))
  | 0x40#8 => .ok (.rd (immField w))
  | 0x50#8 => .ok (.clrerr (immField w))
  | op => .error (.illegalOpcode op)

/-- The opcode of a command (R62). -/
def Instr.opcode : Instr → Byte
  | .nop _ => 0x00#8
  | .ldinit _ => 0x01#8
  | .ldpoly _ => 0x02#8
  | .ldrefl _ => 0x03#8
  | .ldxor _ => 0x04#8
  | .ldmode _ => 0x05#8
  | .norm _ => 0x10#8
  | .upd _ => 0x20#8
  | .fin _ => 0x30#8
  | .rd _ => 0x40#8
  | .clrerr _ => 0x50#8

/-- The operand of a command (R61). -/
def Instr.operand : Instr → Byte
  | .nop imm | .ldinit imm | .ldpoly imm | .ldrefl imm | .ldxor imm | .ldmode imm
  | .norm imm | .upd imm | .fin imm | .rd imm | .clrerr imm => imm

/-- The word of a command (R62, the command word patterns). -/
def encode (i : Instr) : CmdWord := cmdWord i.opcode i.operand

/-- A word given as a number whose bits above `nbits` are 0, as the 16 bits of the command port. -/
def tableWord (nbits w : Nat) : CmdWord := BitVec.ofNat 16 (w % 2 ^ nbits)

/-- The host's question: what the decoder reads from the word `w` of the opcode table. -/
def decodeTableWord (nbits w : Nat) : Option Instr :=
  match decode (tableWord nbits w) with
  | .ok i => some i
  | .error _ => none

end Sys2Proof
end

