-- ==== Sys2Proof/Machine/Operands.lean ====
section
/-!
DEFINITION. The operand forms of the commands (30_encoding.md R61, R64): the reserved operand, the raw
reflect flag, the normalized flag byte, and RD's register selector.
-/

namespace Sys2Proof.Machine

/-- The reserved operand of NOP, NORM, FIN and CLRERR is the legal one (R61). -/
def reservedOk (imm : Byte) : Bool := imm == 0x00#8

/-- LDREFL's operand, the raw reflect flag (40_normalize.md R84): nonzero is Reflected. -/
def rawReflect (imm : Byte) : Mode := if imm = 0x00#8 then .normal else .reflected

/-- LDMODE's operand, the normalized flag byte (R86); none on a reserved value. -/
def normalizedFlag (imm : Byte) : Option Mode :=
  if imm = 0x80#8 then some .normal
  else if imm = 0x01#8 then some .reflected
  else none

/-- RD's operand, the register selector (20_memory.md R41, 43_control.md R131): what it reads in `s`; none
on a reserved selector. -/
def selectedValue (imm : Byte) (s : State) : Option Byte :=
  match imm with
  | 0x00#8 => some s.crc
  | 0x01#8 => some s.poly
  | 0x02#8 => some (flagOf s)
  | 0x03#8 => some s.xorout
  | 0x04#8 => some (statusOf s)
  | _ => none

end Sys2Proof.Machine
end

