-- ==== Sys2Proof/Machine/Ops.lean ====
section
/-!
DEFINITION. The named operations over the state: the write of each field, the response (00_scope.md R10,
30_encoding.md R68), the rejection of a command (60_exceptions.md R142: the block's one exception
operation), the clearing of the error record, the port's two sides, and reset (70_reset_and_hazards.md
R160). The block has no return from a rejection (R146): the next command is simply performed.
-/

namespace Sys2Proof.Machine

def State.setCrc (v : Byte) (s : State) : State := { s with crc := v }
def State.setPoly (v : Byte) (s : State) : State := { s with poly := v }
def State.setXorout (v : Byte) (s : State) : State := { s with xorout := v }
def State.setMode (v : Mode) (s : State) : State := { s with mode := v }
def State.setPhase (v : Phase) (s : State) : State := { s with phase := v }
/-- ERR and ERRCODE are written together (R142, R132). -/
def State.setErrorRecord (e : Bool) (code : BitVec 3) (s : State) : State :=
  { s with err := e, errcode := code }
def State.setPending (es : List PortEvent) (s : State) : State := { s with pending := es }

/-- `respond(d)` (R10, R68): the response word STATUS, DATA, with STATUS of the state it is given, which is
the state after the command's writes. -/
def respond (d : Byte) (s : State) : State :=
  { s with responses := s.responses ++ [statusOf s ++ d] }

/-- `respond(st.CRC)`, how every command but RD ends. -/
def respondCrc (s : State) : State := respond s.crc s

/-- The record of a command error (R142): the first error wins. -/
def recordError (e : CmdError) (s : State) : State :=
  if s.err then s else s.setErrorRecord true e.code

/-- `raise CmdError(code)` (R142): record, then answer with DATA = CRC. -/
def raiseCmdError (e : CmdError) (s : State) : State := respondCrc (recordError e s)

/-- Both halves of the error record back to 0 (R132). -/
def clearErrorRecord (s : State) : State := s.setErrorRecord false 0#3

/-- What decode raises on a word that is no command (30_encoding.md R63). -/
def rejectWord (_ : DecodeError) (s : State) : State := raiseCmdError .illegalOpcode s

/-- The oldest event the outside world presents, and the state that has taken it from the port. -/
def takeEvent (s : State) : Option (PortEvent × State) :=
  match s.pending with
  | [] => none
  | e :: es => some (e, s.setPending es)

/-- Nothing is presented: the block keeps all its state (60_exceptions.md R152). DESIGN CHOICE that a step
is then allowed and changes nothing, log entry 2. -/
def idle (s : State) : State := s

/-- Reset (R160): every field of R20 takes its reset value. The word in flight is dropped: it has no effect
and gets no response. What the host presents later and what was answered before stay (log entry 3). -/
def applyReset (_inFlight : Option CmdWord) (s : State) : State :=
  { State.reset with pending := s.pending, responses := s.responses }

/-- The host presents the word `w` before anything else it was going to present. -/
def State.present (w : CmdWord) (s : State) : State :=
  s.setPending (.command w :: s.pending)

end Sys2Proof.Machine
end

