-- ==== Sys2Proof/Machine/Configure.lean ====
section
/-!
DEFINITION. Recipe configuration and the polynomial normalizer (40_normalize.md): LDINIT, LDPOLY, LDREFL,
LDXOR, LDMODE, NORM.
-/

namespace Sys2Proof.Machine

/-- LDINIT (R82): the seed as it stands, in both modes. -/
def execLdinit (imm : Byte) (s : State) : Host.Outcome State Fault Refusal :=
  .next (respondCrc (s.setCrc imm))

/-- LDPOLY (R83). -/
def execLdpoly (imm : Byte) (s : State) : Host.Outcome State Fault Refusal :=
  .next (respondCrc ((s.setPoly imm).setPhase .raw))

/-- LDREFL (R84): POLY is not changed. -/
def execLdrefl (imm : Byte) (s : State) : Host.Outcome State Fault Refusal :=
  .next (respondCrc ((s.setMode (rawReflect imm)).setPhase .raw))

/-- LDXOR (R85). -/
def execLdxor (imm : Byte) (s : State) : Host.Outcome State Fault Refusal :=
  .next (respondCrc (s.setXorout imm))

/-- LDMODE (R86): POLY is taken as already normalized. -/
def execLdmode (imm : Byte) (s : State) : Host.Outcome State Fault Refusal :=
  .next (match normalizedFlag imm with
    | some m => respondCrc ((s.setMode m).setPhase .ready)
    | none => raiseCmdError .badOperand s)

/-- The effect of normalize on POLY (R81). -/
def normalizedPoly (s : State) : Byte :=
  match s.mode with
  | .normal => s.poly
  | .reflected => rev8 s.poly

/-- NORM (R81): the operand check before the phase check (60_exceptions.md R144). -/
def execNorm (imm : Byte) (s : State) : Host.Outcome State Fault Refusal :=
  .next (
    if !reservedOk imm then raiseCmdError .badOperand s
    else match s.phase with
      | .ready => raiseCmdError .alreadyReady s
      | .raw => respondCrc ((s.setPoly (normalizedPoly s)).setPhase .ready))

end Sys2Proof.Machine
end

