-- ==== Sys2Proof/Machine/Control.lean ====
section
/-!
DEFINITION. The control and read commands (43_control.md): NOP, RD, CLRERR.
-/

namespace Sys2Proof.Machine

/-- NOP (R130). -/
def execNop (imm : Byte) (s : State) : Host.Outcome State Fault Refusal :=
  .next (if reservedOk imm then respondCrc s else raiseCmdError .badOperand s)

/-- RD (R131): the only command whose DATA is not CRC. -/
def execRd (imm : Byte) (s : State) : Host.Outcome State Fault Refusal :=
  .next (match selectedValue imm s with
    | some d => respond d s
    | none => raiseCmdError .badOperand s)

/-- CLRERR (R132). -/
def execClrerr (imm : Byte) (s : State) : Host.Outcome State Fault Refusal :=
  .next (if reservedOk imm then respondCrc (clearErrorRecord s) else raiseCmdError .badOperand s)

end Sys2Proof.Machine
end

