-- ==== Sys2Proof/Machine/Finish.lean ====
section
/-!
DEFINITION. FIN, the output XOR (42_finish.md).
-/

namespace Sys2Proof.Machine

/-- FIN (R120): legal in both phases. -/
def execFin (imm : Byte) (s : State) : Host.Outcome State Fault Refusal :=
  .next (if reservedOk imm then respondCrc (s.setCrc (s.crc ^^^ s.xorout))
    else raiseCmdError .badOperand s)

end Sys2Proof.Machine
end

