-- ==== Sys2Proof/Machine/Update.lean ====
section
/-!
DEFINITION. UPD, the per-byte update command (41_update.md).
-/

namespace Sys2Proof.Machine

/-- UPD (R102): DATA is the new CRC. -/
def execUpd (imm : Byte) (s : State) : Host.Outcome State Fault Refusal :=
  .next (match s.phase with
    | .raw => raiseCmdError .notReady s
    | .ready => respondCrc (s.setCrc (crcByte s.crc s.poly s.mode imm)))

end Sys2Proof.Machine
end

