-- ==== Sys2Proof/Machine/Dispatch.lean ====
section
/-!
DEFINITION. One arm per command: its meaning.
-/

namespace Sys2Proof.Machine

def exec (i : Instr) (s : State) : Host.Outcome State Fault Refusal :=
  match i with
  | .nop imm => Sys2Proof.Machine.execNop imm s
  | .ldinit imm => Sys2Proof.Machine.execLdinit imm s
  | .ldpoly imm => Sys2Proof.Machine.execLdpoly imm s
  | .ldrefl imm => Sys2Proof.Machine.execLdrefl imm s
  | .ldxor imm => Sys2Proof.Machine.execLdxor imm s
  | .ldmode imm => Sys2Proof.Machine.execLdmode imm s
  | .norm imm => Sys2Proof.Machine.execNorm imm s
  | .upd imm => Sys2Proof.Machine.execUpd imm s
  | .fin imm => Sys2Proof.Machine.execFin imm s
  | .rd imm => Sys2Proof.Machine.execRd imm s
  | .clrerr imm => Sys2Proof.Machine.execClrerr imm s

end Sys2Proof.Machine
end

