-- ==== Sys2Proof/Machine/Step.lean ====
section
/-!
DEFINITION. One step of the machine: one whole command and its response, or one reset (00_scope.md R3,
70_reset_and_hazards.md R160).
-/

namespace Sys2Proof.Machine

/-- Take the oldest event of the port and perform it. A word that decodes runs its command; any other word
is rejected by decode (30_encoding.md R63). -/
def step (s : State) : Host.Outcome State Fault Refusal :=
  match takeEvent s with
  | none => .next (idle s)
  | some (.reset inFlight, t) => .next (applyReset inFlight t)
  | some (.command w, t) =>
    match decode w with
    | .ok i => exec i t
    | .error e => .next (rejectWord e t)

/-- `s` with the word `w` presented at the port as the very next command. -/
def State.withFetchWord (s : State) (nbits w : Nat) : State := s.present (tableWord nbits w)

end Sys2Proof.Machine
end

