-- ==== Sys2Proof/Machine/Sequences.lean ====
section
/-!
DEFINITION. The custom recipe encoding and the pseudo-instructions: what a host sends for each
(30_encoding.md R69, R71 to R74). None of them is a command of the block.
-/

namespace Sys2Proof.Machine

/-- `II`, the init byte (R69). -/
def recipeInit (r : RecipeWord) : Byte := r.extractLsb' 24 8

/-- `PP`, the polynomial in standard form (R69). -/
def recipePoly (r : RecipeWord) : Byte := r.extractLsb' 16 8

/-- `RR`, the raw reflect flag (R69). -/
def recipeRefl (r : RecipeWord) : Byte := r.extractLsb' 8 8

/-- `XX`, the XOR-out byte (R69). -/
def recipeXor (r : RecipeWord) : Byte := r.extractLsb' 0 8

/-- `LDRECIPE 0xIIPPRRXX` (R71): load a raw recipe, then normalize it. -/
def ldRecipe (r : RecipeWord) : List CmdWord :=
  [encode (.ldinit (recipeInit r)), encode (.ldpoly (recipePoly r)), encode (.ldrefl (recipeRefl r)),
   encode (.ldxor (recipeXor r)), encode (.norm 0x00#8)]

/-- `UPDN b0, ..., b(n-1)` (R72): bulk update, without FIN. -/
def updN (bytes : List Byte) : List CmdWord := bytes.map fun b => encode (.upd b)

/-- `LDVARIANT init, pn, m, x` (R73): load a pre-normalized recipe, without NORM. -/
def ldVariant (init pn m x : Byte) : List CmdWord :=
  [encode (.ldinit init), encode (.ldpoly pn), encode (.ldmode m), encode (.ldxor x)]

/-- `RDCRC` (R74). -/
def rdCrcAlias : Instr := .rd 0x00#8

/-- `RDSTAT` (R74). -/
def rdStatAlias : Instr := .rd 0x04#8

/-- `RESEED v` (R74). -/
def reseedAlias (v : Byte) : Instr := .ldinit v

end Sys2Proof.Machine
end

