-- ==== Sys2Proof/Machine/Assembler.lean ====
section
/-!
DEFINITION. The assembler syntax of 30_encoding.md R70, with the pseudo-instructions and other names of R71 to
R74: from one line of text to the command words a host sends. A line is a list of characters. What R70
leaves open about the text is in log entry 7.
-/

namespace Sys2Proof.Machine

/-- Why the assembler refuses a line. -/
inductive AsmError where
  /-- A character literal or a string operand is not closed, or a character is not ASCII. -/
  | badLiteral
  /-- The line does not begin with a mnemonic of R62, R71, R72, R73 or R74. -/
  | unknownMnemonic
  /-- The operands are too many, too few, not separated by commas, or not of the form the mnemonic takes. -/
  | badOperands
  deriving DecidableEq, Repr

/-- The pieces of a line. -/
inductive Token where
  | word (cs : List Char)
  | char (c : Char)
  | text (cs : List Char)
  | comma
  deriving DecidableEq, Repr

/-- Where the reader of a line stands; what it has collected is in reverse order. -/
inductive LexMode where
  | plain (acc : List Char)
  | charOpen
  | charClose (c : Char)
  | inText (acc : List Char)
  deriving DecidableEq, Repr

/-- The word collected so far, if there is one, before the tokens that follow it. -/
def endWord (acc : List Char) (ts : List Token) : List Token :=
  if acc.isEmpty then ts else .word acc.reverse :: ts

/-- The tokens of a line. A `;` outside a literal starts a comment to the end of the line (R70). DESIGN CHOICE
(log entry 7), where R70 is open: an opening quote ends the word before it, so a character literal or a string
may follow the mnemonic with no blank (`UPD'1'` is `UPD '1'`); blanks may stand before the mnemonic and around
commas; between quotes every character stands for itself, with no escapes. -/
def lexLine : List Char → LexMode → Except AsmError (List Token)
  | [], .plain acc => .ok (endWord acc [])
  | [], _ => .error .badLiteral
  | c :: cs, .plain acc =>
    if c = ';' then .ok (endWord acc [])
    else if c = ' ' ∨ c = '\t' then (lexLine cs (.plain [])).map (endWord acc)
    else if c = ',' then (lexLine cs (.plain [])).map fun ts => endWord acc (.comma :: ts)
    else if c = '\'' then (lexLine cs .charOpen).map (endWord acc)
    else if c = '"' then (lexLine cs (.inText [])).map (endWord acc)
    else lexLine cs (.plain (c :: acc))
  | c :: cs, .charOpen => lexLine cs (.charClose c)
  | c :: cs, .charClose d =>
    if c = '\'' then (lexLine cs (.plain [])).map (.char d :: ·) else .error .badLiteral
  | c :: cs, .inText acc =>
    if c = '"' then (lexLine cs (.plain [])).map (.text acc.reverse :: ·)
    else lexLine cs (.inText (c :: acc))

/-- The value of a digit of a number in the given base (10 or 16). -/
def digitValue (base : Nat) (c : Char) : Option Nat :=
  let n := c.toNat
  let d :=
    if 0x30 ≤ n ∧ n ≤ 0x39 then n - 0x30
    else if 0x41 ≤ n ∧ n ≤ 0x46 then n - 0x41 + 10
    else if 0x61 ≤ n ∧ n ≤ 0x66 then n - 0x61 + 10
    else base
  if d < base then some d else none

/-- The value of a sequence of digits, the first digit the most significant. -/
def digitsValue (base : Nat) : Nat → List Char → Option Nat
  | acc, [] => some acc
  | acc, c :: cs =>
    match digitValue base c with
    | some d => digitsValue base (acc * base + d) cs
    | none => none

/-- A number in hex (`0x1D`) or decimal (`29`) (R70). Leading zeros are allowed (DESIGN CHOICE, log entry 7). -/
def numberValue : List Char → Option Nat
  | '0' :: 'x' :: d :: ds => digitsValue 16 0 (d :: ds)
  | [] => none
  | ds => digitsValue 10 0 ds

/-- The ASCII code of a character (R70, R72). -/
def asciiByte (c : Char) : Option Byte :=
  if c.toNat < 128 then some (BitVec.ofNat 8 c.toNat) else none

/-- A byte operand (R70): a name the mnemonic accepts, a number 0..255, or a character literal. -/
def byteOperand (names : List (List Char × Byte)) : Token → Option Byte
  | .word cs =>
    match names.lookup cs with
    | some b => some b
    | none =>
      match numberValue cs with
      | some n => if n < 256 then some (BitVec.ofNat 8 n) else none
      | none => none
  | .char c => asciiByte c
  | .text _ => none
  | .comma => none

/-- The operands of a line, separated by commas (R72, R73). -/
def operandList : List Token → Option (List Token)
  | [] => some []
  | .comma :: _ => none
  | [t] => some [t]
  | t :: .comma :: u :: ts => (operandList (u :: ts)).map (t :: ·)
  | _ :: _ :: _ => none

/-- The selector names RD accepts (R70). -/
def selectorNames : List (List Char × Byte) :=
  [("CRC".toList, 0x00#8), ("POLY".toList, 0x01#8), ("FLAG".toList, 0x02#8), ("XOROUT".toList, 0x03#8),
   ("STATUS".toList, 0x04#8)]

/-- The names LDREFL accepts (R70). -/
def reflNames : List (List Char × Byte) := [("NORMAL".toList, 0x00#8), ("REFLECTED".toList, 0x01#8)]

/-- The names LDMODE accepts (R70). -/
def modeNames : List (List Char × Byte) := [("NORMAL".toList, 0x80#8), ("REFLECTED".toList, 0x01#8)]

/-- The mnemonics that take no operand; the assembler emits 0x00 in `imm` (R70, R74). -/
def bareMnemonics : List (List Char × Instr) :=
  [("NOP".toList, .nop 0x00#8), ("NORM".toList, .norm 0x00#8), ("FIN".toList, .fin 0x00#8),
   ("CLRERR".toList, .clrerr 0x00#8), ("RDCRC".toList, rdCrcAlias), ("RDSTAT".toList, rdStatAlias)]

/-- The mnemonics that take one byte operand, with the names each accepts (R70, R74). -/
def byteMnemonics : List (List Char × List (List Char × Byte) × (Byte → Instr)) :=
  [("LDINIT".toList, [], .ldinit), ("LDPOLY".toList, [], .ldpoly), ("LDREFL".toList, reflNames, .ldrefl),
   ("LDXOR".toList, [], .ldxor), ("LDMODE".toList, modeNames, .ldmode), ("UPD".toList, [], .upd),
   ("RD".toList, selectorNames, .rd), ("RESEED".toList, [], reseedAlias)]

/-- LDRECIPE's operand: `0x` and exactly eight hex digits, the one form R71 and R44 write. DESIGN CHOICE (log
entry 7): no file of the spec states a length check (R5, 90 C7), so every other operand (fewer or more digits,
decimal) is refused and given no meaning, as 93 I1 asks. -/
def recipeOperand : List Char → Option RecipeWord
  | '0' :: 'x' :: ds => if ds.length = 8 then (digitsValue 16 0 ds).map (BitVec.ofNat 32) else none
  | _ => none

/-- The words of LDRECIPE (R71). What operand it takes is the choice of `recipeOperand` (log entry 7). -/
def asmLdRecipe : List Token → Option (List CmdWord)
  | [.word cs] => (recipeOperand cs).map ldRecipe
  | _ => none

/-- The words of LDVARIANT (R73): four byte operands. -/
def asmLdVariant (ops : List Token) : Option (List CmdWord) :=
  match ops.mapM (byteOperand []) with
  | some [init, pn, m, x] => some (ldVariant init pn m x)
  | _ => none

/-- The words of UPDN (R72): a string operand, or any number of byte operands; the two are not mixed (DESIGN
CHOICE, log entry 7). -/
def asmUpdN : List Token → Option (List CmdWord)
  | [.text cs] => (cs.mapM asciiByte).map updN
  | ops => (ops.mapM (byteOperand [])).map updN

/-- The words of a mnemonic with its operands. -/
def asmCommand (m : List Char) (ops : List Token) : Except AsmError (List CmdWord) :=
  let words : Option (Option (List CmdWord)) :=
    match bareMnemonics.lookup m with
    | some i => some (if ops.isEmpty then some [encode i] else none)
    | none =>
      match byteMnemonics.lookup m with
      | some (names, make) =>
        some (match ops with
          | [t] => (byteOperand names t).map fun b => [encode (make b)]
          | _ => none)
      | none =>
        if m = "LDRECIPE".toList then some (asmLdRecipe ops)
        else if m = "LDVARIANT".toList then some (asmLdVariant ops)
        else if m = "UPDN".toList then some (asmUpdN ops)
        else none
  match words with
  | none => .error .unknownMnemonic
  | some none => .error .badOperands
  | some (some ws) => .ok ws

/-- The command words of one line (R70); a line with nothing but a comment has none. -/
def assembleLine (line : List Char) : Except AsmError (List CmdWord) :=
  match lexLine line (.plain []) with
  | .error e => .error e
  | .ok [] => .ok []
  | .ok (.word m :: ts) =>
    match operandList ts with
    | some ops => asmCommand m ops
    | none => .error .badOperands
  | .ok _ => .error .unknownMnemonic

/-- The command words of a text, one command per line (R70). A line that is refused refuses the text (DESIGN
CHOICE, log entry 7). -/
def assembleLines : List (List Char) → Except AsmError (List CmdWord)
  | [] => .ok []
  | l :: ls =>
    match assembleLine l with
    | .error e => .error e
    | .ok ws => (assembleLines ls).map (ws ++ ·)

/-- A hex digit, as the spec's listings write it. -/
def hexDigit (d : BitVec 4) : Char :=
  if d.toNat < 10 then Char.ofNat (0x30 + d.toNat) else Char.ofNat (0x41 + d.toNat - 10)

/-- A byte as two hex digits. -/
def hexByte (b : Byte) : List Char := [hexDigit (b.extractLsb' 4 4), hexDigit (b.extractLsb' 0 4)]

/-- The mnemonic of a command (R62). -/
def mnemonicOf : Instr → List Char
  | .nop _ => "NOP".toList
  | .ldinit _ => "LDINIT".toList
  | .ldpoly _ => "LDPOLY".toList
  | .ldrefl _ => "LDREFL".toList
  | .ldxor _ => "LDXOR".toList
  | .ldmode _ => "LDMODE".toList
  | .norm _ => "NORM".toList
  | .upd _ => "UPD".toList
  | .fin _ => "FIN".toList
  | .rd _ => "RD".toList
  | .clrerr _ => "CLRERR".toList

/-- The command takes no operand in the assembler (R70). -/
def takesNoOperand : Instr → Bool
  | .nop _ | .norm _ | .fin _ | .clrerr _ => true
  | .ldinit _ | .ldpoly _ | .ldrefl _ | .ldxor _ | .ldmode _ | .upd _ | .rd _ => false

/-- A command as source text, its operand in hex. A reserved operand other than 0x00 is shown, though the
assembler has no way to write it. -/
def sourceText (i : Instr) : List Char :=
  if takesNoOperand i && i.operand == 0x00#8 then mnemonicOf i
  else mnemonicOf i ++ " 0x".toList ++ hexByte i.operand

/-- One line of a listing (R70): the word as four hex digits before its mnemonic. -/
def listingLine (i : Instr) : List Char :=
  hexByte (opField (encode i)) ++ hexByte (immField (encode i)) ++ "  ".toList ++ sourceText i

end Sys2Proof.Machine
end

