-- ==== Sys2Proof/Config.lean ====
section
/-!
DEFINITION. The two parameters 00_scope.md R7 leaves OPEN, as constants with no body: no proof can see a
value of either. The other parameters of R7 are fixed (Word.lean, State.reset).
-/

namespace Sys2Proof

/-- `NUM_INSTANCES` (R7, 92 D23): how many independent copies of the block the platform holds, at least 1.
Read by `Machine.System.platformReset` only. -/
opaque Config.numInstances : ℕ+

/-- `LATENCY` (R7, 92 D22): clock cycles from acceptance to response, at least 1. No rule depends on it and
a model contains no time (70_reset_and_hazards.md R170), so no definition reads it. -/
opaque Config.latency : ℕ+

end Sys2Proof
end

