-- ==== Sys2Proof/Machine/HostPort.lean ====
section
/-!
DEFINITION. The host's side of the port (92 D1): at most one command is outstanding, so the host presents a
word, waits for its response, and presents the next (20_memory.md R49).
-/

namespace Sys2Proof.Machine

/-- One transaction: the host presents `w` and the block performs it. -/
def send (w : CmdWord) (s : State) : Host.Outcome State Fault Refusal := step (s.present w)

/-- A sequence of transactions, in order, each on the state the one before it left. -/
def sendAll : List CmdWord → State → Host.Outcome State Fault Refusal
  | [], s => .next s
  | w :: ws, s =>
    match send w s with
    | .next t => sendAll ws t
    | .fault r => .fault r
    | .refused r => .refused r

/-- The words `ws` queued at the port, ahead of what the host was going to present. -/
def State.presentAll (ws : List CmdWord) (s : State) : State :=
  s.setPending (ws.map .command ++ s.pending)

end Sys2Proof.Machine
end

