-- ==== Sys2Proof/Machine/System.lean ====
section
/-!
DEFINITION. Several instances of the block (10_state.md R34, 60_exceptions.md R151): each has its own copy of
every field and its own command port, and they share nothing. NUM_INSTANCES is the argument `n`
(00_scope.md R7).
-/

namespace Sys2Proof.Machine

/-- `n` instances side by side. -/
structure System (n : Nat) where
  blocks : Vector State n
  deriving DecidableEq, Repr

/-- Every instance at its own reset state. -/
def System.reset (n : Nat) : System n := { blocks := Vector.replicate n State.reset }

/-- The platform's own number of instances, at reset. -/
def System.platformReset : System Config.numInstances := System.reset Config.numInstances

/-- Instance `k` takes one step; no other instance is touched. -/
def System.stepAt {n : Nat} (k : Fin n) (sys : System n) : Host.Outcome (System n) Fault Refusal :=
  match step sys.blocks[k] with
  | .next t => .next { blocks := sys.blocks.set k t }
  | .fault r => .fault r
  | .refused r => .refused r

/-- The host presents `w` on the port of instance `k`, which performs it. -/
def System.sendAt {n : Nat} (k : Fin n) (w : CmdWord) (sys : System n) :
    Host.Outcome (System n) Fault Refusal :=
  System.stepAt k { blocks := sys.blocks.set k (sys.blocks[k].present w) }

end Sys2Proof.Machine
end

