-- ==== Sys2Proof/WellFormed.lean ====
section
/-!
DEFINITION. Which operand values a command admits (30_encoding.md R62, column "legal operand values";
R64 lists the reserved ones). An ill-formed command is still a command word of the block: its meaning
rejects it with BAD_OPERAND.
-/

namespace Sys2Proof

/-- The operand is one of the legal values of R62 for its command. -/
def Instr.wellFormed : Instr → Bool
  | .nop imm => imm == 0x00#8
  | .ldinit _ => true
  | .ldpoly _ => true
  | .ldrefl _ => true
  | .ldxor _ => true
  | .ldmode imm => imm == 0x80#8 || imm == 0x01#8
  | .norm imm => imm == 0x00#8
  | .upd _ => true
  | .fin imm => imm == 0x00#8
  | .rd imm => decide (imm.toNat ≤ 0x04)
  | .clrerr imm => imm == 0x00#8

end Sys2Proof
end

