-- ==== Sys2Proof/Safety.lean ====
section
/-!
DEFINITION. The terms in which claims are stated: when a command is rejected, which words disturb a running
CRC, the invariant of the error record, and which states can be reached.
-/

namespace Sys2Proof.Machine

/-- The error of the word `w` in the state `s`, in the priority order of 60_exceptions.md R144; none where
the command is accepted. -/
def rejection (w : CmdWord) (s : State) : Option CmdError :=
  match decode w with
  | .error _ => some .illegalOpcode
  | .ok i =>
    if !i.wellFormed then some .badOperand
    else
      match i, s.phase with
      | .upd _, .raw => some .notReady
      | .norm _, .ready => some .alreadyReady
      | _, _ => none

/-- The error record is one the block can hold (10_state.md R26, 60_exceptions.md R141, 93 I9): code 0 while
ERR = 0, and one of the codes 1 to 4 while ERR = 1. -/
abbrev ErrorRecordOk (s : State) : Prop :=
  (s.err = false ∧ s.errcode = 0#3) ∨
    (s.err = true ∧ (s.errcode = 1#3 ∨ s.errcode = 2#3 ∨ s.errcode = 3#3 ∨ s.errcode = 4#3))

/-- The five fields a rejected command keeps (R143) agree. -/
abbrev SameRecipe (s t : State) : Prop :=
  t.crc = s.crc ∧ t.poly = s.poly ∧ t.xorout = s.xorout ∧ t.mode = s.mode ∧ t.phase = s.phase

/-- The error records agree. -/
abbrev SameErrorRecord (s t : State) : Prop := t.err = s.err ∧ t.errcode = s.errcode

/-- The next event at the port is a reset, or a command word whose opcode is one of `ops`. -/
def presentsOneOf (ops : List Byte) (s : State) : Bool :=
  match s.pending with
  | .command w :: _ => ops.contains (opField w)
  | .reset _ :: _ => true
  | [] => false

/-- The data byte of a word that is an UPD. -/
def updByte (w : CmdWord) : Option Byte :=
  match decode w with
  | .ok (.upd b) => some b
  | _ => none

/-- The data bytes of the UPD words of a command sequence, in order. -/
def updBytes (ws : List CmdWord) : List Byte := ws.filterMap updByte

/-- On a READY recipe, the word is an UPD or one of the words 41_update.md R104 allows between the chunks of
a message: NOP, RD, CLRERR, LDXOR, and every word that is then rejected. -/
def keepsMessage (w : CmdWord) : Bool :=
  match decode w with
  | .error _ => true
  | .ok i =>
    match i with
    | .nop _ | .rd _ | .clrerr _ | .ldxor _ | .norm _ | .upd _ => true
    | .fin _ | .ldmode _ => !i.wellFormed
    | .ldinit _ | .ldpoly _ | .ldrefl _ => false

/-- One input bit into the CRC register, the bit-serial form of 20_memory.md R43: the bit is compared with
the register's tested bit, the register shifts, and the polynomial is XORed in if they differ. -/
def serialBit (poly : Byte) (mode : Mode) (reg : Byte) (bit : Bool) : Byte :=
  if testedBit mode reg != bit then mode.shift reg ^^^ poly else mode.shift reg

/-- The bits of a byte in the order MODE consumes them (R43): bit 7 first in Normal, bit 0 first in
Reflected. -/
def bitOrder (mode : Mode) (b : Byte) : List Bool :=
  match mode with
  | .normal => [7, 6, 5, 4, 3, 2, 1, 0].map b.getLsbD
  | .reflected => [0, 1, 2, 3, 4, 5, 6, 7].map b.getLsbD

/-- The states the block can be in: the reset state, any of them with other events presented at the port,
and what a step makes of one. -/
inductive Reachable : State → Prop where
  | reset : Reachable State.reset
  | host (s : State) (es : List PortEvent) : Reachable s → Reachable (s.setPending es)
  | step (s t : State) : Reachable s → Machine.step s = .next t → Reachable t

end Sys2Proof.Machine
end

