-- ==== Sys2Proof/Certificates/Slice0/Obligations.lean ====
section
/-!
DEFINITION. The statements for the provers. Rule numbers are those of spec/; a docstring names the rule its
statement formalises. `respond d s` is `s` with one response word {STATUS, d} appended (R68), and
`raiseCmdError e s` the rejection (R142); both have statements of their own below.
-/

open Sys2Proof Sys2Proof.Machine

/-! ## Reset -/

/-- R33: every field's reset value, STATUS and FLAG after reset, and UPD rejected from reset until the host
runs NORM or LDMODE. -/
def Obligations.ResetValuesAndUpdRejected : Prop :=
  (State.reset.crc = 0x00#8 ∧ State.reset.poly = 0x00#8 ∧ State.reset.xorout = 0x00#8 ∧
    State.reset.mode = .normal ∧ State.reset.phase = .raw ∧ State.reset.err = false ∧
    State.reset.errcode = 0#3) ∧
  statusOf State.reset = 0x00#8 ∧ flagOf State.reset = 0x00#8 ∧
  ∀ ws : List CmdWord, (∀ w ∈ ws, opField w ≠ 0x05#8 ∧ opField w ≠ 0x10#8) →
    ∃ t, sendAll ws State.reset = .next t ∧
      ∀ b, exec (.upd b) t = .next (raiseCmdError .notReady t)

/-- What R160 says of the fields: a reset puts every field of R20 at its reset value in one step, and drops the
word in flight with no effect and no response. That the two lists of the port are kept (`responses` as it was,
`pending` without the reset event) is the model's form, log entry 3 (DEDUCED). -/
def Obligations.ResetEventRestoresEveryField : Prop :=
  ∀ (s : State) (inFlight : Option CmdWord) (rest : List PortEvent),
    s.pending = .reset inFlight :: rest →
    ∃ t, step s = .next t ∧
      t.crc = 0x00#8 ∧ t.poly = 0x00#8 ∧ t.xorout = 0x00#8 ∧ t.mode = .normal ∧ t.phase = .raw ∧
      t.err = false ∧ t.errcode = 0#3 ∧ t.responses = s.responses ∧ t.pending = rest

/-! ## The views -/

/-- R27: the bits of STATUS, its place in every response, and RD selector 4. -/
def Obligations.StatusBitsAndWhereTheyShow : Prop :=
  ∀ s : State,
    (statusOf s).extractLsb' 6 2 = 0#2 ∧ (statusOf s).extractLsb' 3 3 = s.errcode ∧
    (statusOf s).getLsbD 2 = s.err ∧
    (statusOf s).getLsbD 1 = decide (s.mode = .reflected) ∧
    (statusOf s).getLsbD 0 = decide (s.phase = .ready) ∧
    (∀ w, ∃ t r, send w s = .next t ∧ t.responses = s.responses ++ [r] ∧
      r.extractLsb' 8 8 = statusOf t) ∧
    exec (.rd 0x04#8) s = .next (respond (statusOf s) s)

/-- R28: FLAG in each phase and mode, RD selector 2, and FLAG after LDREFL with a nonzero operand. -/
def Obligations.FlagViewByPhaseAndMode : Prop :=
  ∀ s : State,
    (s.phase = .raw → s.mode = .normal → flagOf s = 0x00#8) ∧
    (s.phase = .raw → s.mode = .reflected → flagOf s = 0x01#8) ∧
    (s.phase = .ready → s.mode = .normal → flagOf s = 0x80#8) ∧
    (s.phase = .ready → s.mode = .reflected → flagOf s = 0x01#8) ∧
    exec (.rd 0x02#8) s = .next (respond (flagOf s) s) ∧
    ∀ imm, imm ≠ 0x00#8 → ∃ t, exec (.ldrefl imm) s = .next t ∧ flagOf t = 0x01#8

/-! ## Encoding -/

/-- R62: the opcode map and the legal operand values of each command. -/
def Obligations.OpcodeMapAndLegalOperands : Prop :=
  ∀ imm : Byte,
    (decode (0x00#8 ++ imm) = .ok (.nop imm) ∧ ((Instr.nop imm).wellFormed ↔ imm = 0x00#8)) ∧
    (decode (0x01#8 ++ imm) = .ok (.ldinit imm) ∧ (Instr.ldinit imm).wellFormed) ∧
    (decode (0x02#8 ++ imm) = .ok (.ldpoly imm) ∧ (Instr.ldpoly imm).wellFormed) ∧
    (decode (0x03#8 ++ imm) = .ok (.ldrefl imm) ∧ (Instr.ldrefl imm).wellFormed) ∧
    (decode (0x04#8 ++ imm) = .ok (.ldxor imm) ∧ (Instr.ldxor imm).wellFormed) ∧
    (decode (0x05#8 ++ imm) = .ok (.ldmode imm) ∧
      ((Instr.ldmode imm).wellFormed ↔ imm = 0x80#8 ∨ imm = 0x01#8)) ∧
    (decode (0x10#8 ++ imm) = .ok (.norm imm) ∧ ((Instr.norm imm).wellFormed ↔ imm = 0x00#8)) ∧
    (decode (0x20#8 ++ imm) = .ok (.upd imm) ∧ (Instr.upd imm).wellFormed) ∧
    (decode (0x30#8 ++ imm) = .ok (.fin imm) ∧ ((Instr.fin imm).wellFormed ↔ imm = 0x00#8)) ∧
    (decode (0x40#8 ++ imm) = .ok (.rd imm) ∧ ((Instr.rd imm).wellFormed ↔ imm.toNat ≤ 4)) ∧
    (decode (0x50#8 ++ imm) = .ok (.clrerr imm) ∧ ((Instr.clrerr imm).wellFormed ↔ imm = 0x00#8))

/-- R63: the 245 illegal opcodes, whatever the operand: rejected with code 1, and nothing but ERR and ERRCODE
changes. -/
def Obligations.IllegalOpcodesAreRejected : Prop :=
  let legal : List Byte :=
    [0x00#8, 0x01#8, 0x02#8, 0x03#8, 0x04#8, 0x05#8, 0x10#8, 0x20#8, 0x30#8, 0x40#8, 0x50#8]
  (∀ w, decode w = .error (.illegalOpcode (opField w)) ↔ opField w ∉ legal) ∧
  (List.range 256).countP (fun n => BitVec.ofNat 8 n ∉ legal) = 245 ∧
  CmdError.illegalOpcode.code = 1#3 ∧
  ∀ w s, opField w ∉ legal →
    send w s = .next (raiseCmdError .illegalOpcode s) ∧ SameRecipe s (raiseCmdError .illegalOpcode s)

/-- R64: the reserved operand values, rejected with code 4 in either phase, and the five commands that have
none. -/
def Obligations.ReservedOperandsAreRejected : Prop :=
  CmdError.badOperand.code = 4#3 ∧
  ∀ (s : State) (imm : Byte),
    (imm ≠ 0x00#8 →
      exec (.nop imm) s = .next (raiseCmdError .badOperand s) ∧
      exec (.norm imm) s = .next (raiseCmdError .badOperand s) ∧
      exec (.fin imm) s = .next (raiseCmdError .badOperand s) ∧
      exec (.clrerr imm) s = .next (raiseCmdError .badOperand s)) ∧
    (imm ≠ 0x80#8 → imm ≠ 0x01#8 → exec (.ldmode imm) s = .next (raiseCmdError .badOperand s)) ∧
    (4 < imm.toNat → exec (.rd imm) s = .next (raiseCmdError .badOperand s)) ∧
    (∀ i, i = .ldinit imm ∨ i = .ldpoly imm ∨ i = .ldrefl imm ∨ i = .ldxor imm ∨ i = .upd imm →
      ∃ t, exec i s = .next t ∧ (s.err = false → s.errcode = 0#3 → t.errcode ≠ 4#3))

/-- R65: every word is exactly one of three: an accepted encoding of R62, a BAD_OPERAND rejection in every
state, an ILLEGAL_OPCODE rejection in every state. An accepted encoding records neither error. -/
def Obligations.EveryWordIsOneOfThreeKinds : Prop :=
  ∀ w : CmdWord,
    let accepted := (∃ i, decode w = .ok i ∧ i.wellFormed) ∧
      ∀ s, s.err = false → s.errcode = 0#3 → ∃ t, send w s = .next t ∧ t.errcode ≠ 1#3 ∧ t.errcode ≠ 4#3
    let badOperand := ∀ s, send w s = .next (raiseCmdError .badOperand s)
    let illegalOpcode := ∀ s, send w s = .next (raiseCmdError .illegalOpcode s)
    (accepted ∧ ¬ badOperand ∧ ¬ illegalOpcode) ∨ (¬ accepted ∧ badOperand ∧ ¬ illegalOpcode) ∨
      (¬ accepted ∧ ¬ badOperand ∧ illegalOpcode)

/-- A word decodes to a command exactly when it is that command's encoding: no bit of either is dropped, and
no two commands share a word. -/
def Obligations.DecodeAndEncodeAgree : Prop :=
  ∀ (w : CmdWord) (i : Instr), decode w = .ok i ↔ encode i = w

/-- Words written out from R62 (`op` in bits 15:8, `imm` in bits 7:0), one of each family, and two words that
are no command. -/
def Obligations.SpecWordsDecodeAsTheSpecSays : Prop :=
  decode 0x0000#16 = .ok (.nop 0x00#8) ∧ decode 0x01A5#16 = .ok (.ldinit 0xA5#8) ∧
  decode 0x028C#16 = .ok (.ldpoly 0x8C#8) ∧ decode 0x0301#16 = .ok (.ldrefl 0x01#8) ∧
  decode 0x0455#16 = .ok (.ldxor 0x55#8) ∧ decode 0x0580#16 = .ok (.ldmode 0x80#8) ∧
  decode 0x1000#16 = .ok (.norm 0x00#8) ∧ decode 0x2031#16 = .ok (.upd 0x31#8) ∧
  decode 0x3000#16 = .ok (.fin 0x00#8) ∧ decode 0x4004#16 = .ok (.rd 0x04#8) ∧
  decode 0x5000#16 = .ok (.clrerr 0x00#8) ∧ decode 0x0600#16 = .error (.illegalOpcode 0x06#8) ∧
  decode 0xFFFF#16 = .error (.illegalOpcode 0xFF#8)

/-! ## The step and the rejection -/

/-- When the next event is a word that decodes to `i`, the step is `exec i` on the state that has taken the
word from the port; when it decodes to nothing, the step is the ILLEGAL_OPCODE rejection. The host's
`withFetchWord` puts a word there. (That a step with no event changes nothing is the model's choice, log
entry 2.) -/
def Obligations.StepRunsTheDecodedCommand : Prop :=
  (∀ (s : State) (w : CmdWord) (rest : List PortEvent), s.pending = .command w :: rest →
    (∀ i, decode w = .ok i → step s = exec i { s with pending := rest }) ∧
    (∀ e, decode w = .error e →
      step s = .next (raiseCmdError .illegalOpcode { s with pending := rest }))) ∧
  (∀ s : State, s.pending = [] → step s = .next s) ∧
  (∀ (s : State) (w : CmdWord) (i : Instr), decode w = .ok i →
    step (s.withFetchWord 16 w.toNat) = exec i s)

/-- R142: what a rejection does: the first error wins, and the response carries the CRC, unchanged. -/
def Obligations.RejectionRecordsTheFirstError : Prop :=
  ∀ (e : CmdError) (s : State),
    (s.err = false →
      raiseCmdError e s = respond s.crc { s with err := true, errcode := e.code }) ∧
    (s.err = true → raiseCmdError e s = respond s.crc s) ∧
    (statusOf (raiseCmdError e s)).getLsbD 2 = true ∧
    (raiseCmdError e s).responses = s.responses ++ [statusOf (raiseCmdError e s) ++ s.crc]

/-- R143: a rejected command changes nothing but the error record, and answers exactly once. -/
def Obligations.RejectionIsPrecise : Prop :=
  ∀ (w : CmdWord) (s : State) (e : CmdError), rejection w s = some e →
    ∃ t, send w s = .next t ∧ SameRecipe s t ∧ t.pending = s.pending ∧
      t.responses = s.responses ++ [statusOf t ++ s.crc] ∧
      t.err = true ∧ t.errcode = (if s.err then s.errcode else e.code)

/-- R141, R144: the four codes, the condition of each, and their priority: the opcode, then the operand, then
the phase; where none holds, the error record is kept, but for CLRERR, which clears it. -/
def Obligations.ErrorConditionsAndPriority : Prop :=
  (CmdError.illegalOpcode.code = 1#3 ∧ CmdError.notReady.code = 2#3 ∧
    CmdError.alreadyReady.code = 3#3 ∧ CmdError.badOperand.code = 4#3) ∧
  ∀ (w : CmdWord) (s : State),
    (∀ e, decode w = .error e → send w s = .next (raiseCmdError .illegalOpcode s)) ∧
    (∀ i, decode w = .ok i →
      (i.wellFormed = false → send w s = .next (raiseCmdError .badOperand s)) ∧
      (i.wellFormed = true →
        ((∃ b, i = .upd b) → s.phase = .raw → send w s = .next (raiseCmdError .notReady s)) ∧
        ((∃ b, i = .norm b) → s.phase = .ready → send w s = .next (raiseCmdError .alreadyReady s)) ∧
        (¬ ((∃ b, i = .upd b) ∧ s.phase = .raw) → ¬ ((∃ b, i = .norm b) ∧ s.phase = .ready) →
          ∃ t, send w s = .next t ∧
            ((∀ b, i ≠ .clrerr b) → SameErrorRecord s t) ∧
            ((∃ b, i = .clrerr b) → t.err = false ∧ t.errcode = 0#3))))

/-- The model's choices about stopping: every step of every state answers a next state, so nothing faults and
nothing is refused (log entry 9, DEDUCED; R140 speaks of the operations only), and it takes at most the oldest
event from the port, a step with an empty port answering too (log entry 2, DESIGN CHOICE). -/
def Obligations.StepAlwaysAnswers : Prop :=
  ∀ s : State, ∃ t, step s = .next t ∧ t.pending = s.pending.tail

/-- R68: exactly one response per command, accepted or rejected: STATUS after the command, and DATA. -/
def Obligations.EveryCommandAnswersOneWord : Prop :=
  ∀ (w : CmdWord) (s : State), ∃ t d, send w s = .next t ∧
    t.responses = s.responses ++ [statusOf t ++ d] ∧
    d = (if w = 0x4001#16 then s.poly else if w = 0x4002#16 then flagOf s
      else if w = 0x4003#16 then s.xorout else if w = 0x4004#16 then statusOf s else t.crc)

/-! ## The commands: encoding, effect, errors, and by the equality their frame -/

/-- R130, NOP. -/
def Obligations.NopResult : Prop :=
  decode 0x0000#16 = .ok (.nop 0x00#8) ∧
  ∀ s : State, exec (.nop 0x00#8) s = .next (respond s.crc s) ∧
    ∀ imm, imm ≠ 0x00#8 → exec (.nop imm) s = .next (raiseCmdError .badOperand s)

/-- R82, LDINIT: the seed as it stands in both modes, no other field. -/
def Obligations.LdinitResult : Prop :=
  ∀ (imm : Byte) (s : State), decode (0x01#8 ++ imm) = .ok (.ldinit imm) ∧
    exec (.ldinit imm) s = .next (respond imm { s with crc := imm })

/-- R83, LDPOLY. -/
def Obligations.LdpolyResult : Prop :=
  ∀ (imm : Byte) (s : State), decode (0x02#8 ++ imm) = .ok (.ldpoly imm) ∧
    exec (.ldpoly imm) s = .next (respond s.crc { s with poly := imm, phase := .raw })

/-- R84, LDREFL: 0x00 is Normal, every other value Reflected. -/
def Obligations.LdreflResult : Prop :=
  ∀ (imm : Byte) (s : State), decode (0x03#8 ++ imm) = .ok (.ldrefl imm) ∧
    (imm = 0x00#8 →
      exec (.ldrefl imm) s = .next (respond s.crc { s with mode := .normal, phase := .raw })) ∧
    (imm ≠ 0x00#8 →
      exec (.ldrefl imm) s = .next (respond s.crc { s with mode := .reflected, phase := .raw }))

/-- R85, LDXOR. -/
def Obligations.LdxorResult : Prop :=
  ∀ (imm : Byte) (s : State), decode (0x04#8 ++ imm) = .ok (.ldxor imm) ∧
    exec (.ldxor imm) s = .next (respond s.crc { s with xorout := imm })

/-- R86, LDMODE: legal in either phase, POLY not changed. -/
def Obligations.LdmodeResult : Prop :=
  ∀ (imm : Byte) (s : State), decode (0x05#8 ++ imm) = .ok (.ldmode imm) ∧
    (imm = 0x80#8 →
      exec (.ldmode imm) s = .next (respond s.crc { s with mode := .normal, phase := .ready })) ∧
    (imm = 0x01#8 →
      exec (.ldmode imm) s = .next (respond s.crc { s with mode := .reflected, phase := .ready })) ∧
    (imm ≠ 0x80#8 → imm ≠ 0x01#8 → exec (.ldmode imm) s = .next (raiseCmdError .badOperand s))

/-- R81, NORM. -/
def Obligations.NormResult : Prop :=
  decode 0x1000#16 = .ok (.norm 0x00#8) ∧
  ∀ s : State,
    (s.phase = .raw → s.mode = .reflected →
      exec (.norm 0x00#8) s = .next (respond s.crc { s with poly := rev8 s.poly, phase := .ready })) ∧
    (s.phase = .raw → s.mode = .normal →
      exec (.norm 0x00#8) s = .next (respond s.crc { s with phase := .ready })) ∧
    (s.phase = .ready → exec (.norm 0x00#8) s = .next (raiseCmdError .alreadyReady s)) ∧
    (∀ imm, imm ≠ 0x00#8 → exec (.norm imm) s = .next (raiseCmdError .badOperand s))

/-- R102, UPD: DATA is the new CRC, and only CRC is written. -/
def Obligations.UpdResult : Prop :=
  ∀ (imm : Byte) (s : State), decode (0x20#8 ++ imm) = .ok (.upd imm) ∧
    (s.phase = .ready →
      exec (.upd imm) s = .next (respond (crcByte s.crc s.poly s.mode imm)
        { s with crc := crcByte s.crc s.poly s.mode imm })) ∧
    (s.phase = .raw → exec (.upd imm) s = .next (raiseCmdError .notReady s))

/-- R120, FIN: in both phases. -/
def Obligations.FinResult : Prop :=
  decode 0x3000#16 = .ok (.fin 0x00#8) ∧
  ∀ s : State,
    exec (.fin 0x00#8) s = .next (respond (s.crc ^^^ s.xorout) { s with crc := s.crc ^^^ s.xorout }) ∧
    ∀ imm, imm ≠ 0x00#8 → exec (.fin imm) s = .next (raiseCmdError .badOperand s)

/-- R131, RD: no field is written. -/
def Obligations.RdResult : Prop :=
  (∀ imm : Byte, decode (0x40#8 ++ imm) = .ok (.rd imm)) ∧
  ∀ s : State,
    exec (.rd 0x00#8) s = .next (respond s.crc s) ∧
    exec (.rd 0x01#8) s = .next (respond s.poly s) ∧
    exec (.rd 0x02#8) s = .next (respond (flagOf s) s) ∧
    exec (.rd 0x03#8) s = .next (respond s.xorout s) ∧
    exec (.rd 0x04#8) s = .next (respond (statusOf s) s) ∧
    ∀ imm, 4 < imm.toNat → exec (.rd imm) s = .next (raiseCmdError .badOperand s)

/-- R132, CLRERR. -/
def Obligations.ClrerrResult : Prop :=
  decode 0x5000#16 = .ok (.clrerr 0x00#8) ∧
  ∀ s : State,
    exec (.clrerr 0x00#8) s = .next (respond s.crc { s with err := false, errcode := 0#3 }) ∧
    ∀ imm, imm ≠ 0x00#8 → exec (.clrerr imm) s = .next (raiseCmdError .badOperand s)

/-! ## Whole-machine rules -/

/-- R25: how PHASE changes, over every word and over reset; UPD is accepted only in READY, NORM only in RAW. -/
def Obligations.PhaseChangesOnlyByTheTable : Prop :=
  (∀ (w : CmdWord) (s : State), ∃ t, send w s = .next t ∧
    t.phase =
      if opField w = 0x02#8 ∨ opField w = 0x03#8 then .raw
      else if w = 0x1000#16 ∧ s.phase = .raw then .ready
      else if w = 0x0580#16 ∨ w = 0x0501#16 then .ready
      else s.phase) ∧
  (∀ (s : State) (f : Option CmdWord) (rest : List PortEvent), s.pending = .reset f :: rest →
    ∃ t, step s = .next t ∧ t.phase = .raw) ∧
  (∀ (s : State) (b : Byte), s.phase = .raw → exec (.upd b) s = .next (raiseCmdError .notReady s)) ∧
  (∀ s : State, s.phase = .ready → exec (.norm 0x00#8) s = .next (raiseCmdError .alreadyReady s))

/-- R29, the column "written by": a field that a step changes was written by a reset or by one of the commands
the table names for it; the error record only by a rejected word, CLRERR or a reset. -/
def Obligations.FieldsChangeOnlyByTheirWriters : Prop :=
  ∀ s t : State, step s = .next t →
    (t.crc ≠ s.crc → presentsOneOf [0x01#8, 0x20#8, 0x30#8] s = true) ∧
    (t.poly ≠ s.poly → presentsOneOf [0x02#8, 0x10#8] s = true) ∧
    (t.xorout ≠ s.xorout → presentsOneOf [0x04#8] s = true) ∧
    (t.mode ≠ s.mode → presentsOneOf [0x03#8, 0x05#8] s = true) ∧
    (t.phase ≠ s.phase → presentsOneOf [0x02#8, 0x03#8, 0x10#8, 0x05#8] s = true) ∧
    (t.err ≠ s.err ∨ t.errcode ≠ s.errcode →
      presentsOneOf [0x50#8] s = true ∨
        ∃ w rest, s.pending = .command w :: rest ∧ rejection w s ≠ none)

/-- R29, the column "read by", for the three bytes: a command that does not read CRC, POLY or XOROUT does the
same whatever that field holds. For CRC, what every response's DATA shows is left aside. -/
def Obligations.BytesAreReadOnlyByTheirReaders : Prop :=
  ∀ (w : CmdWord) (s : State) (v : Byte),
    (opField w ≠ 0x10#8 → opField w ≠ 0x20#8 → w ≠ 0x4001#16 →
      ∃ t, send w s = .next t ∧
        send w { s with poly := v } = .next { t with poly := if opField w = 0x02#8 then t.poly else v }) ∧
    (opField w ≠ 0x30#8 → w ≠ 0x4003#16 →
      ∃ t, send w s = .next t ∧
        send w { s with xorout := v } =
          .next { t with xorout := if opField w = 0x04#8 then t.xorout else v }) ∧
    (opField w ≠ 0x20#8 → opField w ≠ 0x30#8 →
      ∃ t rs, send w s = .next t ∧
        send w { s with crc := v } =
          .next { t with crc := (if opField w = 0x01#8 then t.crc else v), responses := rs })

/-- R29, the column "read by", for MODE, PHASE and the error record: only NORM and UPD read the first two for
an effect and no command reads the third for one; every response shows all three in STATUS. -/
def Obligations.BitsAreReadOnlyByTheirReaders : Prop :=
  ∀ (w : CmdWord) (s : State) (m : Mode) (p : Phase) (e : Bool) (c : BitVec 3),
    (opField w ≠ 0x10#8 → opField w ≠ 0x20#8 →
      ∃ t rs, send w s = .next t ∧
        send w { s with mode := m } = .next { t with
          mode := (if opField w = 0x03#8 ∨ w = 0x0580#16 ∨ w = 0x0501#16 then t.mode else m),
          responses := rs }) ∧
    (opField w ≠ 0x10#8 → opField w ≠ 0x20#8 →
      ∃ t rs, send w s = .next t ∧
        send w { s with phase := p } = .next { t with
          phase := (if opField w = 0x02#8 ∨ opField w = 0x03#8 ∨ w = 0x0580#16 ∨ w = 0x0501#16
            then t.phase else p),
          responses := rs }) ∧
    (∃ t u, send w s = .next t ∧ send w { s with err := e, errcode := c } = .next u ∧ SameRecipe t u)

/-- R24: XOROUT's only writers are LDXOR and reset, its only readers FIN and RD; FIN XORs it into CRC. -/
def Obligations.XoroutWritersAndReaders : Prop :=
  (∀ s t : State, step s = .next t → presentsOneOf [0x04#8] s = false → t.xorout = s.xorout) ∧
  (∀ (w : CmdWord) (s : State) (x : Byte),
    opField w ≠ 0x30#8 → opField w ≠ 0x40#8 → opField w ≠ 0x04#8 →
      ∃ t, send w s = .next t ∧ send w { s with xorout := x } = .next { t with xorout := x }) ∧
  (∀ s : State, ∃ t, exec (.fin 0x00#8) s = .next t ∧ t.crc = s.crc ^^^ s.xorout) ∧
  (∀ s : State, exec (.rd 0x03#8) s = .next (respond s.xorout s)) ∧
  (∀ (s : State) (imm : Byte), ∃ t, exec (.ldxor imm) s = .next t ∧ t.xorout = imm)

/-- R147: an error record, once set, stays as it is through any commands but CLRERR, and blocks none of them:
what a command does to the recipe does not depend on it. CLRERR and reset clear it. -/
def Obligations.ErrorRecordIsStickyAndBlocksNothing : Prop :=
  (∀ (ws : List CmdWord) (s : State), s.err = true → (∀ w ∈ ws, w ≠ 0x5000#16) →
    ∃ t, sendAll ws s = .next t ∧ t.err = true ∧ t.errcode = s.errcode) ∧
  (∀ (w : CmdWord) (s : State) (c : BitVec 3), ∃ t u,
    send w { s with err := true, errcode := c } = .next t ∧
    send w { s with err := false, errcode := 0#3 } = .next u ∧ SameRecipe t u) ∧
  (∀ s : State, ∃ t, send 0x5000#16 s = .next t ∧ t.err = false ∧ t.errcode = 0#3) ∧
  (∀ (s : State) (f : Option CmdWord) (rest : List PortEvent), s.pending = .reset f :: rest →
    ∃ t, step s = .next t ∧ t.err = false ∧ t.errcode = 0#3)

/-- Every step keeps the error record one the block can hold (R26, R141). -/
def Obligations.StepKeepsErrorRecordOk : Prop :=
  ∀ s t : State, ErrorRecordOk s → step s = .next t → ErrorRecordOk t

/-- The reset state's error record is one the block can hold. -/
def Obligations.ResetErrorRecordOk : Prop := ErrorRecordOk State.reset

/-- ERRCODE 5 to 7 are never produced (R141, 93 I9), and ERRCODE is 0 exactly while ERR = 0 (R26): in every
state the block can reach, whatever the host sends and whenever it resets. -/
def Obligations.ReachableErrorCodes : Prop :=
  ∀ s : State, Reachable s → s.errcode.toNat ≤ 4 ∧ (s.err = false ↔ s.errcode = 0#3)

/-- R49: commands are performed one at a time and in order, each on what the earlier ones left, and the
responses come in that order: a queue at the port is performed as the transactions one by one, and the
responses to the first part stand before those to the rest. -/
def Obligations.CommandsAndResponsesInOrder : Prop :=
  (∀ (ws : List CmdWord) (s : State),
    Sys2Proof.core.run ws.length (s.presentAll ws) = sendAll ws s) ∧
  (∀ (ws vs : List CmdWord) (s : State), ∃ t u rs qs,
    sendAll ws s = .next t ∧ sendAll vs t = .next u ∧ sendAll (ws ++ vs) s = .next u ∧
    t.responses = s.responses ++ rs ∧ rs.length = ws.length ∧
    u.responses = t.responses ++ qs ∧ qs.length = vs.length)

/-- R48: an accepted RD or NOP changes no field of R20, and repeating it gives the same response. -/
def Obligations.RdAndNopAreIdempotent : Prop :=
  ∀ (w : CmdWord) (s : State), w = 0x0000#16 ∨ (opField w = 0x40#8 ∧ (immField w).toNat ≤ 4) →
    ∃ r, send w s = .next { s with responses := s.responses ++ [r] } ∧
      sendAll [w, w] s = .next { s with responses := s.responses ++ [r, r] }

/-! ## The engine -/

/-- R80: bit reversal, its involution, its 16 fixed points, and the source's example. -/
def Obligations.BitReversal : Prop :=
  (∀ (v : Byte) (i : Nat), i < 8 → (rev8 v).getLsbD i = v.getLsbD (7 - i)) ∧
  (∀ v : Byte, rev8 (rev8 v) = v) ∧
  (∀ v : Byte, rev8 v = v ↔ v ∈ [0x00#8, 0x18#8, 0x24#8, 0x3C#8, 0x42#8, 0x5A#8, 0x66#8, 0x7E#8,
    0x81#8, 0x99#8, 0xA5#8, 0xBD#8, 0xC3#8, 0xDB#8, 0xE7#8, 0xFF#8]) ∧
  rev8 0x31#8 = 0x8C#8

/-- R100 with the operators of R9: one iteration in each mode, on the numbers the bytes stand for, and
crcByte as eight iterations from crc ^ b. -/
def Obligations.UpdateAlgorithm : Prop :=
  (∀ w poly : Byte, crcStep w poly .normal =
    let s := BitVec.ofNat 8 (w.toNat * 2 % 256)
    if w.getLsbD 7 then s ^^^ poly else s) ∧
  (∀ w poly : Byte, crcStep w poly .reflected =
    let s := BitVec.ofNat 8 (w.toNat / 2)
    if w.getLsbD 0 then s ^^^ poly else s) ∧
  (∀ (crc poly : Byte) (mode : Mode) (b : Byte),
    crcByte crc poly mode b = (fun w => crcStep w poly mode)^[8] (crc ^^^ b))

/-- R101, the first two corner cases: crc = b gives 0x00, and poly = 0x00 gives 0x00. -/
def Obligations.UpdateCornerCases : Prop :=
  (∀ (c poly : Byte) (mode : Mode), crcByte c poly mode c = 0x00#8) ∧
  (∀ (c b : Byte) (mode : Mode), crcByte c 0x00#8 mode b = 0x00#8)

/-- R43: the byte's bits enter the register one by one, bit 7 first in Normal and bit 0 first in Reflected. -/
def Obligations.BitOrderWithinAByte : Prop :=
  ∀ (crc poly : Byte) (mode : Mode) (b : Byte),
    crcByte crc poly mode b = (bitOrder mode b).foldl (serialBit poly mode) crc

/-- R105: Reflected mode is Normal mode with every bit order mirrored, polynomial, register and input alike,
and is not Normal mode with a reversed result. -/
def Obligations.ReflectedModeIsTheMirroredNormalMode : Prop :=
  (∀ c poly b : Byte,
    crcByte c poly .reflected b = rev8 (crcByte (rev8 c) (rev8 poly) .normal (rev8 b))) ∧
  ∃ c poly b : Byte, crcByte c (rev8 poly) .reflected b ≠ rev8 (crcByte c poly .normal b)

/-- The CRC as a remainder (R101, G1, G2): in Normal mode, with the bytes read as polynomials over GF(2), the
CRC after a message M of n bytes from the seed c is the remainder of c·x^(8n) + M·x^8 by x^8 + poly. The spec
marks this reading as general knowledge, not in its source. -/
def Obligations.BulkIsThePolynomialRemainder : Prop :=
  let P : Byte → Polynomial (ZMod 2) := fun v =>
    ∑ i ∈ Finset.range 8, if v.getLsbD i then Polynomial.X ^ i else 0
  let message : List Byte → Polynomial (ZMod 2) := fun bs =>
    bs.foldl (fun m b => m * Polynomial.X ^ 8 + P b) 0
  ∀ (c poly : Byte) (bs : List Byte),
    P (bulk c poly .normal bs) =
      (P c * Polynomial.X ^ (8 * bs.length) + message bs * Polynomial.X ^ 8) %ₘ
        (Polynomial.X ^ 8 + P poly)

/-! ## Sequences -/

/-- R103: a bulk update on a READY recipe leaves the fold of crcByte in CRC and nothing else changed, and its
last response carries that value; no byte is no command; in the RAW phase every UPD of it is rejected. -/
def Obligations.BulkUpdate : Prop :=
  (∀ (c p : Byte) (m : Mode), bulk c p m [] = c) ∧
  (∀ (c p : Byte) (m : Mode) (b : Byte) (bs : List Byte),
    bulk c p m (b :: bs) = bulk (crcByte c p m b) p m bs) ∧
  updN [] = [] ∧
  (∀ (bs : List Byte) (s : State), s.phase = .ready → ∃ rs,
    sendAll (updN bs) s =
      .next { s with crc := bulk s.crc s.poly s.mode bs, responses := s.responses ++ rs } ∧
    rs.length = bs.length ∧
    (bs ≠ [] → rs.getLast? = some (statusOf s ++ bulk s.crc s.poly s.mode bs))) ∧
  (∀ (bs : List Byte) (s : State), s.phase = .raw → ∃ t, sendAll (updN bs) s = .next t ∧
    SameRecipe s t ∧ ∀ b, exec (.upd b) t = .next (raiseCmdError .notReady t))

/-- R104: a message may be split into chunks, with NOP, RD, CLRERR, LDXOR and rejected commands anywhere
between its bytes. -/
def Obligations.IncrementalEquivalence : Prop :=
  (∀ (c p : Byte) (m : Mode) (as bs : List Byte),
    bulk (bulk c p m as) p m bs = bulk c p m (as ++ bs)) ∧
  (∀ (ws : List CmdWord) (s : State), s.phase = .ready → (∀ w ∈ ws, keepsMessage w = true) →
    ∃ t, sendAll ws s = .next t ∧ t.crc = bulk s.crc s.poly s.mode (updBytes ws) ∧
      t.poly = s.poly ∧ t.mode = s.mode ∧ t.phase = .ready)

/-- R121: after k accepted FINs with no other write of CRC among them (nor of XOROUT), CRC is c ^ XOROUT for odd
k and c for even k, so two restore it; back to back they change nothing else; FIN is idempotent exactly when
XOROUT = 0x00. The words among the FINs are all but LDINIT, LDXOR and an accepted UPD; a FIN that counts is the
accepted word 0x3000. -/
def Obligations.FinParity : Prop :=
  (∀ (ws : List CmdWord) (s : State),
    (∀ pre w post, ws = pre ++ w :: post →
      opField w ≠ 0x01#8 ∧ opField w ≠ 0x04#8 ∧
        (opField w = 0x20#8 → ∀ u, sendAll pre s = .next u → u.phase = .raw)) →
    ∃ t, sendAll ws s = .next t ∧ t.xorout = s.xorout ∧
      t.crc = if ws.count 0x3000#16 % 2 = 1 then s.crc ^^^ s.xorout else s.crc) ∧
  (∀ (k : Nat) (s : State), ∃ rs,
    sendAll (List.replicate k 0x3000#16) s = .next { s with
      crc := (if k % 2 = 1 then s.crc ^^^ s.xorout else s.crc), responses := s.responses ++ rs }) ∧
  (∀ s : State,
    (∀ t u, sendAll [0x3000#16] s = .next t → sendAll [0x3000#16, 0x3000#16] s = .next u →
      u.crc = t.crc) ↔ s.xorout = 0x00#8)

/-- R122: FIN on a fresh recipe: after LDINIT v, with no accepted UPD since (and no other FIN or LDINIT), FIN
gives v ^ XOROUT, in either phase. -/
def Obligations.FinOnAFreshRecipe : Prop :=
  ∀ (v : Byte) (ws : List CmdWord) (s s0 : State), send (0x01#8 ++ v) s = .next s0 →
    (∀ pre w post, ws = pre ++ w :: post →
      opField w ≠ 0x01#8 ∧ opField w ≠ 0x30#8 ∧
        (opField w = 0x20#8 → ∀ u, sendAll pre s0 = .next u → u.phase = .raw)) →
    ∃ t u, sendAll ws s0 = .next t ∧ send 0x3000#16 t = .next u ∧ u.crc = v ^^^ t.xorout

/-- R87: NORM never reverses twice: any number of NORMs after a first one are rejected and leave POLY alone; a
READY recipe keeps POLY through every word sequence without LDPOLY and LDREFL, so the double reversal is reached
only through those loads, and then corrupts the check value. -/
def Obligations.NormalizeIsNotRepeated : Prop :=
  (∀ (ws : List CmdWord) (s : State), s.phase = .ready →
    (∀ w ∈ ws, opField w ≠ 0x02#8 ∧ opField w ≠ 0x03#8) →
    ∃ t, sendAll ws s = .next t ∧ t.poly = s.poly ∧ t.phase = .ready) ∧
  (∀ (k : Nat) (s : State), s.phase = .ready → ∃ t,
    sendAll (List.replicate k 0x1000#16) s = .next t ∧ SameRecipe s t ∧
    send 0x1000#16 t = .next (raiseCmdError .alreadyReady t)) ∧
  (∀ s : State, ∃ t, sendAll [0x028C#16, 0x0301#16, 0x1000#16] s = .next t ∧
    t.poly = 0x31#8 ∧ t.mode = .reflected ∧ t.phase = .ready) ∧
  (let check := [0x31#8, 0x32#8, 0x33#8, 0x34#8, 0x35#8, 0x36#8, 0x37#8, 0x38#8, 0x39#8]
   bulk 0x00#8 0x31#8 .reflected check = 0x07#8 ∧ bulk 0x00#8 0x8C#8 .reflected check = 0xA1#8)

/-- R163, R164: the host sequences that still reverse a normalized POLY, with no error recorded. -/
def Obligations.RenormalizingHazards : Prop :=
  (∀ s : State, s.mode = .reflected → s.phase = .ready → ∃ t,
    sendAll [0x0301#16, 0x1000#16] s = .next t ∧ t.poly = rev8 s.poly ∧ t.mode = .reflected ∧
    t.phase = .ready ∧ SameErrorRecord s t) ∧
  (∀ (s : State) (p : Byte), s.mode = .reflected → ∃ t,
    sendAll [0x02#8 ++ rev8 p, 0x1000#16] s = .next t ∧ t.poly = p ∧ t.mode = .reflected ∧
    t.phase = .ready ∧ SameErrorRecord s t) ∧
  (∀ (s : State) (p : Byte), ∃ t,
    sendAll [0x02#8 ++ rev8 p, 0x0301#16, 0x1000#16] s = .next t ∧ t.poly = p ∧
    t.mode = .reflected ∧ t.phase = .ready ∧ SameErrorRecord s t)

/-- R71: the five words of LDRECIPE, what they load from any state, that the order of the first four is free,
and that LDPOLY or LDREFL after NORM leaves the recipe raw. -/
def Obligations.LdRecipeLoadsAndNormalizes : Prop :=
  (∀ ii pp rr xx : Byte,
    ldRecipe (ii ++ pp ++ rr ++ xx) =
      [0x01#8 ++ ii, 0x02#8 ++ pp, 0x03#8 ++ rr, 0x04#8 ++ xx, 0x1000#16] ∧
    ∀ (loads : List CmdWord) (s : State),
      loads.Perm [0x01#8 ++ ii, 0x02#8 ++ pp, 0x03#8 ++ rr, 0x04#8 ++ xx] →
      ∃ rs, sendAll (loads ++ [0x1000#16]) s = .next { s with
        crc := ii, poly := (if rr = 0x00#8 then pp else rev8 pp), xorout := xx,
        mode := (if rr = 0x00#8 then .normal else .reflected), phase := .ready,
        responses := s.responses ++ rs }) ∧
  ldRecipe 0x00310100#32 = [0x0100#16, 0x0231#16, 0x0301#16, 0x0400#16, 0x1000#16] ∧
  (∀ (s : State) (v : Byte),
    (∃ t, sendAll [0x1000#16, 0x02#8 ++ v] s = .next t ∧ t.phase = .raw) ∧
    (∃ t, sendAll [0x1000#16, 0x03#8 ++ v] s = .next t ∧ t.phase = .raw))

/-- UPDN, as R72 gives it: one UPD per byte, in order, with no FIN, and no command for no byte; every string of
ASCII characters without the closing quote stands for its bytes in order, with no terminator. That a `;` or a
line end inside the string is one of its characters is the model's choice, log entry 7 (DESIGN CHOICE). -/
def Obligations.UpdnExpansion : Prop :=
  (∀ bs : List Byte, (updN bs).length = bs.length ∧
    ∀ i : Nat, (updN bs)[i]? = bs[i]?.map fun b => (0x20#8 ++ b : CmdWord)) ∧
  (∀ s : State, sendAll (updN []) s = .next s) ∧
  (∀ bs cs : List Byte, updN (bs ++ cs) = updN bs ++ updN cs) ∧
  (∀ cs : List Char, (∀ c ∈ cs, c.toNat < 128 ∧ c ≠ '"') →
    assembleLine ("UPDN \"".toList ++ cs ++ ['"']) =
      .ok (cs.map fun c => (0x20#8 ++ BitVec.ofNat 8 c.toNat : CmdWord))) ∧
  assembleLine "UPDN \"123\"".toList = .ok [0x2031#16, 0x2032#16, 0x2033#16]

/-- R73: the four words of LDVARIANT, what they load from any state, and that LDMODE before LDPOLY leaves the
recipe raw. -/
def Obligations.LdVariantLoadsWithoutNormalizing : Prop :=
  (∀ init pn m x : Byte,
    ldVariant init pn m x = [0x01#8 ++ init, 0x02#8 ++ pn, 0x05#8 ++ m, 0x04#8 ++ x] ∧
    ∀ s : State, m = 0x80#8 ∨ m = 0x01#8 → ∃ rs,
      sendAll (ldVariant init pn m x) s = .next { s with
        crc := init, poly := pn, xorout := x, mode := (if m = 0x80#8 then .normal else .reflected),
        phase := .ready, responses := s.responses ++ rs }) ∧
  ldVariant 0x00#8 0x8C#8 0x01#8 0x00#8 = [0x0100#16, 0x028C#16, 0x0501#16, 0x0400#16] ∧
  (∀ (s : State) (pn m : Byte), ∃ t,
    sendAll [0x05#8 ++ m, 0x02#8 ++ pn] s = .next t ∧ t.phase = .raw)

/-- R74: the other names are renamings of one command word each. -/
def Obligations.AliasesAreRenamings : Prop :=
  encode rdCrcAlias = 0x4000#16 ∧ encode rdStatAlias = 0x4004#16 ∧
  ∀ v : Byte, encode (reseedAlias v) = 0x01#8 ++ v

/-- Forms of R70 and R71: hex, decimal and character operands, the names of RD, LDREFL and LDMODE, the four
commands that take no operand, a comment after a command, the spec's listing, and LDRECIPE's operand as R71
writes it. The clauses that `NOP 0x00` is refused, that a line of comment alone has no command, and that
LDRECIPE refuses seven digits, nine digits and decimal are the model's choices where the spec is open, log
entry 7 (DESIGN CHOICE). -/
def Obligations.AssemblerForms : Prop :=
  assembleLine "LDPOLY 0x1D".toList = .ok [0x021D#16] ∧
  assembleLine "LDPOLY 29 ; decimal".toList = .ok [0x021D#16] ∧
  assembleLine "UPD '1'".toList = .ok [0x2031#16] ∧
  assembleLine "RD CRC".toList = .ok [0x4000#16] ∧ assembleLine "RD POLY".toList = .ok [0x4001#16] ∧
  assembleLine "RD FLAG".toList = .ok [0x4002#16] ∧ assembleLine "RD XOROUT".toList = .ok [0x4003#16] ∧
  assembleLine "RD STATUS".toList = .ok [0x4004#16] ∧
  assembleLine "LDREFL NORMAL".toList = .ok [0x0300#16] ∧
  assembleLine "LDREFL REFLECTED".toList = .ok [0x0301#16] ∧
  assembleLine "LDMODE NORMAL".toList = .ok [0x0580#16] ∧
  assembleLine "LDMODE REFLECTED".toList = .ok [0x0501#16] ∧
  assembleLine "NOP".toList = .ok [0x0000#16] ∧ assembleLine "NORM".toList = .ok [0x1000#16] ∧
  assembleLine "FIN".toList = .ok [0x3000#16] ∧ assembleLine "CLRERR".toList = .ok [0x5000#16] ∧
  assembleLine "NOP 0x00".toList = .error .badOperands ∧
  assembleLine "; a comment".toList = .ok [] ∧
  assembleLine "LDRECIPE 0x00310100".toList = .ok (ldRecipe 0x00310100#32) ∧
  assembleLine "LDRECIPE 0x0310100".toList = .error .badOperands ∧
  assembleLine "LDRECIPE 0x000310100".toList = .error .badOperands ∧
  assembleLine "LDRECIPE 3211520".toList = .error .badOperands ∧
  listingLine (.upd 0x31#8) = "2031  UPD 0x31".toList

/-- Assembling the source text of a command gives its word, for every command the assembler can write; and
`LDRECIPE 0xIIPPRRXX` gives the five words of that recipe, for every recipe. -/
def Obligations.AssembleAndPrintAgree : Prop :=
  (∀ i : Instr, (takesNoOperand i = true → i.operand = 0x00#8) →
    assembleLine (sourceText i) = .ok [encode i]) ∧
  ∀ ii pp rr xx : Byte,
    assembleLine ("LDRECIPE 0x".toList ++ hexByte ii ++ hexByte pp ++ hexByte rr ++ hexByte xx) =
      .ok (ldRecipe (ii ++ pp ++ rr ++ xx))

/-- R162: a whole computation, from any state, by either path: configure, update with the message, finish. The
result is in CRC and in FIN's response, with no error recorded. -/
def Obligations.WholeChecksumByEitherPath : Prop :=
  (∀ (ii pp rr xx : Byte) (msg : List Byte) (s : State), ∃ t,
    sendAll (ldRecipe (ii ++ pp ++ rr ++ xx) ++ updN msg ++ [0x3000#16]) s = .next t ∧
    t.crc = bulk ii (if rr = 0x00#8 then pp else rev8 pp)
      (if rr = 0x00#8 then .normal else .reflected) msg ^^^ xx ∧
    t.responses.getLast? = some (statusOf t ++ t.crc) ∧ SameErrorRecord s t) ∧
  (∀ (init pn m x : Byte) (msg : List Byte) (s : State), m = 0x80#8 ∨ m = 0x01#8 → ∃ t,
    sendAll (ldVariant init pn m x ++ updN msg ++ [0x3000#16]) s = .next t ∧
    t.crc = bulk init pn (if m = 0x80#8 then .normal else .reflected) msg ^^^ x ∧
    t.responses.getLast? = some (statusOf t ++ t.crc) ∧ SameErrorRecord s t)

/-- R166: after a message and its FIN, LDINIT starts the next one on the same recipe: POLY, MODE, XOROUT and
PHASE stay valid, and CRC holds the first result until then. -/
def Obligations.ReseedStartsTheNextMessage : Prop :=
  ∀ (msg next : List Byte) (v : Byte) (s : State), s.phase = .ready → ∃ t u,
    sendAll (updN msg ++ [0x3000#16]) s = .next t ∧
    t.crc = bulk s.crc s.poly s.mode msg ^^^ s.xorout ∧
    t.poly = s.poly ∧ t.mode = s.mode ∧ t.xorout = s.xorout ∧ t.phase = .ready ∧
    sendAll ([encode (reseedAlias v)] ++ updN next ++ [0x3000#16]) t = .next u ∧
    u.crc = bulk v s.poly s.mode next ^^^ s.xorout

/-! ## Several instances -/

/-- R34: a command to one instance does what it does to that instance alone, and leaves every field of every
other instance as it was. -/
def Obligations.InstancesShareNoState : Prop :=
  ∀ (n : Nat) (k : Fin n) (w : CmdWord) (sys : System n), ∃ t sys',
    send w sys.blocks[k] = .next t ∧ System.sendAt k w sys = .next sys' ∧
    sys'.blocks[k] = t ∧ ∀ j : Fin n, j ≠ k → sys'.blocks[j] = sys.blocks[j]

/-- R51: commands to different instances commute. -/
def Obligations.CommandsToDifferentInstancesCommute : Prop :=
  ∀ (n : Nat) (j k : Fin n) (v w : CmdWord) (sys : System n), j ≠ k → ∃ a b c,
    System.sendAt j v sys = .next a ∧ System.sendAt k w a = .next c ∧
    System.sendAt k w sys = .next b ∧ System.sendAt j v b = .next c
end

