-- ==== Sys2Proof/Laws/Assembler.lean ====
section
/-!
SUPPORT. What the assembler's readers of characters do, said once: a string operand, a hex digit, a word.
-/

namespace Sys2Proof.Machine

/-- A string operand up to its closing quote is one token, its characters as they stand. -/
theorem lexLine_inText (cs acc rest : List Char) (h : ∀ c ∈ cs, c ≠ '"') :
    lexLine (cs ++ '"' :: rest) (.inText acc) =
      (lexLine rest (.plain [])).map (.text (acc.reverse ++ cs) :: ·) := by
  induction cs generalizing acc with
  | nil => simp [lexLine]
  | cons c cs ih =>
    simp only [List.mem_cons, forall_eq_or_imp] at h
    simp [lexLine, h.1, ih _ h.2]

/-- The characters that stand for themselves in a word. -/
def wordChar (c : Char) : Bool :=
  c != ';' && c != ' ' && c != '\t' && c != ',' && c != '\'' && c != '"'

/-- Characters of a word are collected. -/
theorem lexLine_word (cs acc rest : List Char) (h : ∀ c ∈ cs, wordChar c = true) :
    lexLine (cs ++ rest) (.plain acc) = lexLine rest (.plain (cs.reverse ++ acc)) := by
  induction cs generalizing acc with
  | nil => rfl
  | cons c cs ih =>
    simp only [List.mem_cons, forall_eq_or_imp] at h
    have hc := h.1
    simp only [wordChar, Bool.and_eq_true, bne_iff_ne, ne_eq] at hc
    simp [lexLine, hc, ih _ h.2]

/-- The value of a hex digit is what it was written from. -/
theorem digitValue_hexDigit (d : BitVec 4) : digitValue 16 (hexDigit d) = some d.toNat := by
  revert d; decide

theorem wordChar_hexDigit (d : BitVec 4) : wordChar (hexDigit d) = true := by
  revert d; decide

/-- The value of digits that begin with a byte's two hex digits. -/
theorem digitsValue_hexByte (b : Byte) (acc : Nat) (cs : List Char) :
    digitsValue 16 acc (hexByte b ++ cs) = digitsValue 16 (acc * 256 + b.toNat) cs := by
  have h : (b.extractLsb' 4 4).toNat * 16 + (b.extractLsb' 0 4).toNat = b.toNat := by
    simp [BitVec.extractLsb'_toNat, Nat.shiftRight_eq_div_pow]
    omega
  simp only [hexByte, List.cons_append, List.nil_append, digitsValue, digitValue_hexDigit]
  congr 1
  omega

/-- A word with a byte below it, as a number. -/
theorem toNat_append_byte {n : Nat} (w : BitVec n) (b : Byte) :
    (w ++ b).toNat = w.toNat * 256 + b.toNat := by
  rw [BitVec.toNat_append, ← Nat.shiftLeft_add_eq_or_of_lt b.isLt, Nat.shiftLeft_eq]

/-- A recipe written as `0x` and the two hex digits of each of its bytes reads back. -/
theorem recipeOperand_hexBytes (ii pp rr xx : Byte) :
    recipeOperand ('0' :: 'x' :: (hexByte ii ++ hexByte pp ++ hexByte rr ++ hexByte xx)) =
      some (ii ++ pp ++ rr ++ xx) := by
  have hd : digitsValue 16 0 (hexByte ii ++ hexByte pp ++ hexByte rr ++ hexByte xx) =
      some ((((0 * 256 + ii.toNat) * 256 + pp.toNat) * 256 + rr.toNat) * 256 + xx.toNat) := by
    rw [← List.append_nil (_ ++ hexByte xx)]
    simp only [List.append_assoc, digitsValue_hexByte, digitsValue]
  simp only [recipeOperand, hd]
  refine (if_pos rfl).trans (congrArg some ?_)
  apply BitVec.eq_of_toNat_eq
  simp only [BitVec.toNat_ofNat, toNat_append_byte]
  omega

/-- A line whose tokens are a mnemonic and its operands is that command. -/
theorem assembleLine_of_tokens {line m : List Char} {ts ops : List Token}
    (hl : lexLine line (.plain []) = .ok (.word m :: ts)) (ho : operandList ts = some ops) :
    assembleLine line = asmCommand m ops := by
  simp [assembleLine, hl, ho]

/-- LDRECIPE with a recipe its operand reader reads. -/
theorem asmCommand_ldRecipe {cs : List Char} {r : RecipeWord} (h : recipeOperand cs = some r) :
    asmCommand "LDRECIPE".toList [.word cs] = .ok (ldRecipe r) := by
  have h' : asmLdRecipe [.word cs] = some (ldRecipe r) := by simp [asmLdRecipe, h]
  have hb : bareMnemonics.lookup "LDRECIPE".toList = none := rfl
  have hm : byteMnemonics.lookup "LDRECIPE".toList = none := rfl
  simp only [asmCommand, hb, hm, h', if_true]

/-- UPDN with a string of ASCII characters. -/
theorem asmCommand_updN_text {cs : List Char} {bs : List Byte} (h : cs.mapM asciiByte = some bs) :
    asmCommand "UPDN".toList [.text cs] = .ok (updN bs) := by
  have h' : asmUpdN [.text cs] = some (updN bs) := by simp [asmUpdN, h]
  have hb : bareMnemonics.lookup "UPDN".toList = none := rfl
  have hm : byteMnemonics.lookup "UPDN".toList = none := rfl
  have h1 : "UPDN".toList ≠ "LDRECIPE".toList := by decide
  have h2 : "UPDN".toList ≠ "LDVARIANT".toList := by decide
  simp only [asmCommand, hb, hm, if_neg h1, if_neg h2, h', if_true]

end Sys2Proof.Machine
end

