-- ==== Sys2Proof/Laws/State.lean ====
section
/-!
SUPPORT. One lemma per field per update of State, each true by rfl, and the views' dependence on the fields.
-/

namespace Sys2Proof.Machine

variable (s : State)

@[simp] theorem State.setCrc_crc (v : Byte) : (s.setCrc v).crc = v := rfl
@[simp] theorem State.setCrc_poly (v : Byte) : (s.setCrc v).poly = s.poly := rfl
@[simp] theorem State.setCrc_xorout (v : Byte) : (s.setCrc v).xorout = s.xorout := rfl
@[simp] theorem State.setCrc_mode (v : Byte) : (s.setCrc v).mode = s.mode := rfl
@[simp] theorem State.setCrc_phase (v : Byte) : (s.setCrc v).phase = s.phase := rfl
@[simp] theorem State.setCrc_err (v : Byte) : (s.setCrc v).err = s.err := rfl
@[simp] theorem State.setCrc_errcode (v : Byte) : (s.setCrc v).errcode = s.errcode := rfl
@[simp] theorem State.setCrc_pending (v : Byte) : (s.setCrc v).pending = s.pending := rfl
@[simp] theorem State.setCrc_responses (v : Byte) : (s.setCrc v).responses = s.responses := rfl

@[simp] theorem State.setPoly_crc (v : Byte) : (s.setPoly v).crc = s.crc := rfl
@[simp] theorem State.setPoly_poly (v : Byte) : (s.setPoly v).poly = v := rfl
@[simp] theorem State.setPoly_xorout (v : Byte) : (s.setPoly v).xorout = s.xorout := rfl
@[simp] theorem State.setPoly_mode (v : Byte) : (s.setPoly v).mode = s.mode := rfl
@[simp] theorem State.setPoly_phase (v : Byte) : (s.setPoly v).phase = s.phase := rfl
@[simp] theorem State.setPoly_err (v : Byte) : (s.setPoly v).err = s.err := rfl
@[simp] theorem State.setPoly_errcode (v : Byte) : (s.setPoly v).errcode = s.errcode := rfl
@[simp] theorem State.setPoly_pending (v : Byte) : (s.setPoly v).pending = s.pending := rfl
@[simp] theorem State.setPoly_responses (v : Byte) : (s.setPoly v).responses = s.responses := rfl

@[simp] theorem State.setXorout_crc (v : Byte) : (s.setXorout v).crc = s.crc := rfl
@[simp] theorem State.setXorout_poly (v : Byte) : (s.setXorout v).poly = s.poly := rfl
@[simp] theorem State.setXorout_xorout (v : Byte) : (s.setXorout v).xorout = v := rfl
@[simp] theorem State.setXorout_mode (v : Byte) : (s.setXorout v).mode = s.mode := rfl
@[simp] theorem State.setXorout_phase (v : Byte) : (s.setXorout v).phase = s.phase := rfl
@[simp] theorem State.setXorout_err (v : Byte) : (s.setXorout v).err = s.err := rfl
@[simp] theorem State.setXorout_errcode (v : Byte) : (s.setXorout v).errcode = s.errcode := rfl
@[simp] theorem State.setXorout_pending (v : Byte) : (s.setXorout v).pending = s.pending := rfl
@[simp] theorem State.setXorout_responses (v : Byte) : (s.setXorout v).responses = s.responses := rfl

@[simp] theorem State.setMode_crc (v : Mode) : (s.setMode v).crc = s.crc := rfl
@[simp] theorem State.setMode_poly (v : Mode) : (s.setMode v).poly = s.poly := rfl
@[simp] theorem State.setMode_xorout (v : Mode) : (s.setMode v).xorout = s.xorout := rfl
@[simp] theorem State.setMode_mode (v : Mode) : (s.setMode v).mode = v := rfl
@[simp] theorem State.setMode_phase (v : Mode) : (s.setMode v).phase = s.phase := rfl
@[simp] theorem State.setMode_err (v : Mode) : (s.setMode v).err = s.err := rfl
@[simp] theorem State.setMode_errcode (v : Mode) : (s.setMode v).errcode = s.errcode := rfl
@[simp] theorem State.setMode_pending (v : Mode) : (s.setMode v).pending = s.pending := rfl
@[simp] theorem State.setMode_responses (v : Mode) : (s.setMode v).responses = s.responses := rfl

@[simp] theorem State.setPhase_crc (v : Phase) : (s.setPhase v).crc = s.crc := rfl
@[simp] theorem State.setPhase_poly (v : Phase) : (s.setPhase v).poly = s.poly := rfl
@[simp] theorem State.setPhase_xorout (v : Phase) : (s.setPhase v).xorout = s.xorout := rfl
@[simp] theorem State.setPhase_mode (v : Phase) : (s.setPhase v).mode = s.mode := rfl
@[simp] theorem State.setPhase_phase (v : Phase) : (s.setPhase v).phase = v := rfl
@[simp] theorem State.setPhase_err (v : Phase) : (s.setPhase v).err = s.err := rfl
@[simp] theorem State.setPhase_errcode (v : Phase) : (s.setPhase v).errcode = s.errcode := rfl
@[simp] theorem State.setPhase_pending (v : Phase) : (s.setPhase v).pending = s.pending := rfl
@[simp] theorem State.setPhase_responses (v : Phase) : (s.setPhase v).responses = s.responses := rfl

@[simp] theorem State.setErrorRecord_crc (e : Bool) (c : BitVec 3) : (s.setErrorRecord e c).crc = s.crc := rfl
@[simp] theorem State.setErrorRecord_poly (e : Bool) (c : BitVec 3) : (s.setErrorRecord e c).poly = s.poly := rfl
@[simp] theorem State.setErrorRecord_xorout (e : Bool) (c : BitVec 3) : (s.setErrorRecord e c).xorout = s.xorout := rfl
@[simp] theorem State.setErrorRecord_mode (e : Bool) (c : BitVec 3) : (s.setErrorRecord e c).mode = s.mode := rfl
@[simp] theorem State.setErrorRecord_phase (e : Bool) (c : BitVec 3) : (s.setErrorRecord e c).phase = s.phase := rfl
@[simp] theorem State.setErrorRecord_err (e : Bool) (c : BitVec 3) : (s.setErrorRecord e c).err = e := rfl
@[simp] theorem State.setErrorRecord_errcode (e : Bool) (c : BitVec 3) : (s.setErrorRecord e c).errcode = c := rfl
@[simp] theorem State.setErrorRecord_pending (e : Bool) (c : BitVec 3) : (s.setErrorRecord e c).pending = s.pending := rfl
@[simp] theorem State.setErrorRecord_responses (e : Bool) (c : BitVec 3) : (s.setErrorRecord e c).responses = s.responses := rfl

@[simp] theorem State.setPending_crc (es : List PortEvent) : (s.setPending es).crc = s.crc := rfl
@[simp] theorem State.setPending_poly (es : List PortEvent) : (s.setPending es).poly = s.poly := rfl
@[simp] theorem State.setPending_xorout (es : List PortEvent) : (s.setPending es).xorout = s.xorout := rfl
@[simp] theorem State.setPending_mode (es : List PortEvent) : (s.setPending es).mode = s.mode := rfl
@[simp] theorem State.setPending_phase (es : List PortEvent) : (s.setPending es).phase = s.phase := rfl
@[simp] theorem State.setPending_err (es : List PortEvent) : (s.setPending es).err = s.err := rfl
@[simp] theorem State.setPending_errcode (es : List PortEvent) : (s.setPending es).errcode = s.errcode := rfl
@[simp] theorem State.setPending_pending (es : List PortEvent) : (s.setPending es).pending = es := rfl
@[simp] theorem State.setPending_responses (es : List PortEvent) : (s.setPending es).responses = s.responses := rfl

@[simp] theorem respond_crc (d : Byte) : (respond d s).crc = s.crc := rfl
@[simp] theorem respond_poly (d : Byte) : (respond d s).poly = s.poly := rfl
@[simp] theorem respond_xorout (d : Byte) : (respond d s).xorout = s.xorout := rfl
@[simp] theorem respond_mode (d : Byte) : (respond d s).mode = s.mode := rfl
@[simp] theorem respond_phase (d : Byte) : (respond d s).phase = s.phase := rfl
@[simp] theorem respond_err (d : Byte) : (respond d s).err = s.err := rfl
@[simp] theorem respond_errcode (d : Byte) : (respond d s).errcode = s.errcode := rfl
@[simp] theorem respond_pending (d : Byte) : (respond d s).pending = s.pending := rfl
@[simp] theorem respond_responses (d : Byte) : (respond d s).responses = s.responses ++ [statusOf s ++ d] := rfl

/-- Presenting a word and taking it from the port again gives the state back. -/
@[simp] theorem State.present_taken (w : CmdWord) : (s.present w).setPending s.pending = s := rfl

@[simp] theorem State.setPending_self : s.setPending s.pending = s := rfl

end Sys2Proof.Machine
end

