-- ==== Sys2Proof/Laws/Ops.lean ====
section
/-!
SUPPORT. The shared operations: one lemma each that says all it can do, so that no proof unfolds them.
-/

namespace Sys2Proof.Machine

/-- Recording an error while none is recorded. -/
@[simp] theorem recordError_first (e : CmdError) (s : State) (h : s.err = false) :
    recordError e s = s.setErrorRecord true e.code := by simp [recordError, h]

/-- Recording an error while one is recorded. -/
@[simp] theorem recordError_again (e : CmdError) (s : State) (h : s.err = true) :
    recordError e s = s := by simp [recordError, h]

/-- What recording an error leaves alone, and what it records. -/
theorem recordError_cases (e : CmdError) (s : State) :
    (s.err = false ∧ recordError e s = s.setErrorRecord true e.code) ∨
      (s.err = true ∧ recordError e s = s) := by
  cases h : s.err <;> simp [h]

section
variable (e : CmdError) (s : State)

@[simp] theorem recordError_crc : (recordError e s).crc = s.crc := by
  rcases recordError_cases e s with ⟨-, h⟩ | ⟨-, h⟩ <;> simp [h]
@[simp] theorem recordError_poly : (recordError e s).poly = s.poly := by
  rcases recordError_cases e s with ⟨-, h⟩ | ⟨-, h⟩ <;> simp [h]
@[simp] theorem recordError_xorout : (recordError e s).xorout = s.xorout := by
  rcases recordError_cases e s with ⟨-, h⟩ | ⟨-, h⟩ <;> simp [h]
@[simp] theorem recordError_mode : (recordError e s).mode = s.mode := by
  rcases recordError_cases e s with ⟨-, h⟩ | ⟨-, h⟩ <;> simp [h]
@[simp] theorem recordError_phase : (recordError e s).phase = s.phase := by
  rcases recordError_cases e s with ⟨-, h⟩ | ⟨-, h⟩ <;> simp [h]
@[simp] theorem recordError_pending : (recordError e s).pending = s.pending := by
  rcases recordError_cases e s with ⟨-, h⟩ | ⟨-, h⟩ <;> simp [h]
@[simp] theorem recordError_responses : (recordError e s).responses = s.responses := by
  rcases recordError_cases e s with ⟨-, h⟩ | ⟨-, h⟩ <;> simp [h]
@[simp] theorem recordError_err : (recordError e s).err = true := by
  rcases recordError_cases e s with ⟨-, h⟩ | ⟨h', h⟩ <;> simp [*]
@[simp] theorem recordError_errcode :
    (recordError e s).errcode = if s.err then s.errcode else e.code := by
  rcases recordError_cases e s with ⟨h', h⟩ | ⟨h', h⟩ <;> simp [h']

@[simp] theorem raiseCmdError_crc : (raiseCmdError e s).crc = s.crc := by
  simp [raiseCmdError, respondCrc]
@[simp] theorem raiseCmdError_poly : (raiseCmdError e s).poly = s.poly := by
  simp [raiseCmdError, respondCrc]
@[simp] theorem raiseCmdError_xorout : (raiseCmdError e s).xorout = s.xorout := by
  simp [raiseCmdError, respondCrc]
@[simp] theorem raiseCmdError_mode : (raiseCmdError e s).mode = s.mode := by
  simp [raiseCmdError, respondCrc]
@[simp] theorem raiseCmdError_phase : (raiseCmdError e s).phase = s.phase := by
  simp [raiseCmdError, respondCrc]
@[simp] theorem raiseCmdError_pending : (raiseCmdError e s).pending = s.pending := by
  simp [raiseCmdError, respondCrc]
@[simp] theorem raiseCmdError_err : (raiseCmdError e s).err = true := by
  simp [raiseCmdError, respondCrc]
@[simp] theorem raiseCmdError_errcode :
    (raiseCmdError e s).errcode = if s.err then s.errcode else e.code := by
  simp [raiseCmdError, respondCrc]

end

/-- The code of a command error is never 0: it is one of 1 to 4. -/
theorem CmdError.code_cases (e : CmdError) :
    e.code = 1#3 ∨ e.code = 2#3 ∨ e.code = 3#3 ∨ e.code = 4#3 := by cases e <;> decide

/-- STATUS depends on MODE, PHASE and the error record only. -/
theorem statusOf_congr {s t : State} (hm : s.mode = t.mode) (hp : s.phase = t.phase)
    (he : s.err = t.err) (hc : s.errcode = t.errcode) : statusOf s = statusOf t := by
  simp [statusOf, hm, hp, he, hc]

/-- The operand form of the four commands with a reserved operand. -/
@[simp] theorem reservedOk_iff (imm : Byte) : reservedOk imm = true ↔ imm = 0x00#8 := by
  simp [reservedOk]

/-- The operand form of LDMODE: one of its two values, or reserved. -/
theorem normalizedFlag_cases (imm : Byte) :
    (imm = 0x80#8 ∧ normalizedFlag imm = some .normal) ∨
    (imm = 0x01#8 ∧ normalizedFlag imm = some .reflected) ∨
    (imm ≠ 0x80#8 ∧ imm ≠ 0x01#8 ∧ normalizedFlag imm = none) := by
  unfold normalizedFlag
  split
  · simp_all
  · split <;> simp_all

/-- The operand form of RD: one of its five selectors, or reserved. -/
theorem selectedValue_cases (imm : Byte) (s : State) :
    (imm = 0x00#8 ∧ selectedValue imm s = some s.crc) ∨
    (imm = 0x01#8 ∧ selectedValue imm s = some s.poly) ∨
    (imm = 0x02#8 ∧ selectedValue imm s = some (flagOf s)) ∨
    (imm = 0x03#8 ∧ selectedValue imm s = some s.xorout) ∨
    (imm = 0x04#8 ∧ selectedValue imm s = some (statusOf s)) ∨
    (0x04 < imm.toNat ∧ selectedValue imm s = none) := by
  unfold selectedValue
  split
  case h_6 h0 h1 h2 h3 h4 =>
    have e (n : Nat) (hn : n < 2 ^ 8) (h : imm = BitVec.ofNat 8 n → False) : imm.toNat ≠ n := fun c =>
      h (by rw [← c, BitVec.ofNat_toNat, BitVec.setWidth_eq])
    have := e 0 (by omega) h0
    have := e 1 (by omega) h1
    have := e 2 (by omega) h2
    have := e 3 (by omega) h3
    have := e 4 (by omega) h4
    refine Or.inr (Or.inr (Or.inr (Or.inr (Or.inr ⟨by omega, rfl⟩))))
  all_goals simp

/-- One iteration in Normal mode, in the words of 41_update.md R100. -/
theorem crcStep_normal (w poly : Byte) :
    crcStep w poly .normal = if w.getLsbD 7 then (w <<< 1) ^^^ poly else w <<< 1 := by
  have h : testedBit .normal w = w.getLsbD 7 := by revert w; decide
  simp [crcStep, h, Mode.shift]

/-- One iteration in Reflected mode, in the words of R100. -/
theorem crcStep_reflected (w poly : Byte) :
    crcStep w poly .reflected = if w.getLsbD 0 then (w >>> 1) ^^^ poly else w >>> 1 := by
  have h : testedBit .reflected w = w.getLsbD 0 := by revert w; decide
  simp [crcStep, h, Mode.shift]

end Sys2Proof.Machine
end

