-- ==== Sys2Proof/Laws/Crc.lean ====
section
/-!
SUPPORT. The engine's functions, one equation each, and normalize's effect on POLY by mode.
-/

namespace Sys2Proof.Machine

theorem crcSteps_zero (w poly : Byte) (mode : Mode) : crcSteps 0 w poly mode = w := rfl

theorem crcSteps_succ (n : Nat) (w poly : Byte) (mode : Mode) :
    crcSteps (n + 1) w poly mode = crcSteps n (crcStep w poly mode) poly mode := rfl

/-- Iterations in two runs are iterations in one. -/
theorem crcSteps_add (m n : Nat) (w poly : Byte) (mode : Mode) :
    crcSteps (m + n) w poly mode = crcSteps n (crcSteps m w poly mode) poly mode := by
  induction m generalizing w with
  | zero => rw [Nat.zero_add, crcSteps_zero]
  | succ m ih => rw [Nat.succ_add, crcSteps_succ, crcSteps_succ, ih]

theorem normalizedPoly_normal {s : State} (h : s.mode = .normal) : normalizedPoly s = s.poly := by
  simp [normalizedPoly, h]

theorem normalizedPoly_reflected {s : State} (h : s.mode = .reflected) :
    normalizedPoly s = rev8 s.poly := by
  simp [normalizedPoly, h]

end Sys2Proof.Machine
end

