-- ==== Sys2Proof/Laws/Decode.lean ====
section
/-!
SUPPORT. The fields of a command word put together and taken apart again.
-/

namespace Sys2Proof

@[simp] theorem opField_cmdWord (op imm : Byte) : opField (cmdWord op imm) = op := by
  ext i hi
  simp only [opField, cmdWord, BitVec.getElem_extractLsb', BitVec.getLsbD_append]
  simp [hi]

@[simp] theorem immField_cmdWord (op imm : Byte) : immField (cmdWord op imm) = imm := by
  ext i hi
  simp only [immField, cmdWord, BitVec.getElem_extractLsb', BitVec.getLsbD_append]
  simp [hi]

/-- A command word is its two fields. -/
theorem cmdWord_fields (w : CmdWord) : cmdWord (opField w) (immField w) = w := by
  apply BitVec.eq_of_getLsbD_eq
  intro i hi
  simp only [opField, immField, cmdWord, BitVec.getLsbD_append, BitVec.getLsbD_extractLsb']
  split
  · simp_all
  · simp [show i - 8 < 8 by omega, show 8 + (i - 8) = i by omega]

/-- A 16-bit number is its own word of the opcode table. -/
theorem tableWord_sixteen (w : CmdWord) : tableWord 16 w.toNat = w := by
  apply BitVec.eq_of_toNat_eq
  have := w.isLt
  simp [tableWord]
  omega

end Sys2Proof
end

