-- ==== Sys2Proof/Laws/PerInstr.lean ====
section
/-!
SUPPORT. What is said of every command as syntax, one lemma per constructor.
-/

namespace Sys2Proof.Laws

/-- The encoded word holds the command's opcode in bits 15:8 and its operand in bits 7:0 (30_encoding.md R60). -/
def EncodedFields.Statement (i : Instr) : Prop :=
  opField (encode i) = i.opcode ∧ immField (encode i) = i.operand

theorem encodedFields_of (i : Instr) : EncodedFields.Statement i :=
  ⟨opField_cmdWord _ _, immField_cmdWord _ _⟩

theorem EncodedFields.nop (imm : Byte) : EncodedFields.Statement (.nop imm) := encodedFields_of _
theorem EncodedFields.ldinit (imm : Byte) : EncodedFields.Statement (.ldinit imm) := encodedFields_of _
theorem EncodedFields.ldpoly (imm : Byte) : EncodedFields.Statement (.ldpoly imm) := encodedFields_of _
theorem EncodedFields.ldrefl (imm : Byte) : EncodedFields.Statement (.ldrefl imm) := encodedFields_of _
theorem EncodedFields.ldxor (imm : Byte) : EncodedFields.Statement (.ldxor imm) := encodedFields_of _
theorem EncodedFields.ldmode (imm : Byte) : EncodedFields.Statement (.ldmode imm) := encodedFields_of _
theorem EncodedFields.norm (imm : Byte) : EncodedFields.Statement (.norm imm) := encodedFields_of _
theorem EncodedFields.upd (imm : Byte) : EncodedFields.Statement (.upd imm) := encodedFields_of _
theorem EncodedFields.fin (imm : Byte) : EncodedFields.Statement (.fin imm) := encodedFields_of _
theorem EncodedFields.rd (imm : Byte) : EncodedFields.Statement (.rd imm) := encodedFields_of _
theorem EncodedFields.clrerr (imm : Byte) : EncodedFields.Statement (.clrerr imm) := encodedFields_of _

end Sys2Proof.Laws
end

