-- ==== Sys2Proof/Laws/Step.lean ====
section
/-!
SUPPORT. What one step can do, said once, and one transaction of the host.
-/

namespace Sys2Proof.Machine

/-- Every way a step can answer a next state. -/
theorem step_cases {s t : State} (h : step s = .next t) :
    (s.pending = [] ∧ t = s) ∨
    (∃ f es, s.pending = .reset f :: es ∧ t = applyReset f (s.setPending es)) ∨
    (∃ w es e, s.pending = .command w :: es ∧ decode w = .error e ∧ t = rejectWord e (s.setPending es)) ∨
    (∃ w es i, s.pending = .command w :: es ∧ decode w = .ok i ∧ exec i (s.setPending es) = .next t) := by
  unfold step takeEvent at h
  rcases hp : s.pending with _ | ⟨e, es⟩
  · simp only [hp] at h
    exact Or.inl ⟨rfl, by cases h; rfl⟩
  · simp only [hp] at h
    cases e with
    | reset f =>
      simp only at h
      exact Or.inr (Or.inl ⟨f, es, rfl, by cases h; rfl⟩)
    | command w =>
      simp only at h
      cases hd : decode w with
      | error e =>
        simp only [hd] at h
        exact Or.inr (Or.inr (Or.inl ⟨w, es, e, rfl, hd, by cases h; rfl⟩))
      | ok i =>
        simp only [hd] at h
        exact Or.inr (Or.inr (Or.inr ⟨w, es, i, rfl, hd, h⟩))

/-- A transaction whose word decodes performs its command on the state the word was sent to. -/
theorem send_of_ok {w : CmdWord} {i : Instr} (h : decode w = .ok i) (s : State) : send w s = exec i s := by
  simp [send, step, takeEvent, State.present, State.setPending, h]

/-- A transaction whose word is no command is rejected by decode. -/
theorem send_of_error {w : CmdWord} {e : DecodeError} (h : decode w = .error e) (s : State) :
    send w s = .next (raiseCmdError .illegalOpcode s) := by
  simp [send, step, takeEvent, State.present, State.setPending, h, rejectWord]

@[simp] theorem sendAll_nil (s : State) : sendAll [] s = .next s := rfl

/-- The first of several transactions, when it answers a next state. -/
theorem sendAll_cons {w : CmdWord} {ws : List CmdWord} {s t : State} (h : send w s = .next t) :
    sendAll (w :: ws) s = sendAll ws t := by simp [sendAll, h]

/-- One step of the host's run of the machine. -/
theorem core_run_succ {s t : State} {k : Nat} (h : step s = .next t) :
    Sys2Proof.core.run (k + 1) s = Sys2Proof.core.run k t := by
  have h' : Sys2Proof.core.step s = .next t := h
  simp only [Host.Core.run]
  rw [h']

end Sys2Proof.Machine
end

