-- ==== Sys2Proof/Laws/System.lean ====
section
/-!
SUPPORT. One step of one instance among several.
-/

namespace Sys2Proof.Machine

/-- A step of instance `k` is that block's own step, put back in its place. -/
theorem System.stepAt_of_next {n : Nat} {k : Fin n} {sys : System n} {t : State}
    (h : step sys.blocks[k] = .next t) :
    System.stepAt k sys = .next { blocks := sys.blocks.set k t } := by
  unfold System.stepAt
  rw [h]

end Sys2Proof.Machine
end

