-- ==== Sys2Proof/Tests/Slice0.lean ====
section
/-!
SUPPORT. The model's own tests: small theorems on one step or one function, with results taken from the spec's
examples and vectors (the section or rule is named at each), and a witness for the hypotheses of each
statement.
-/

namespace Sys2Proof.Tests

open Sys2Proof.Machine

/-- A state with nothing pending and nothing answered. -/
def block (crc poly xorout : Byte) (mode : Mode) (phase : Phase) (err : Bool) (code : BitVec 3) : State :=
  { crc := crc, poly := poly, xorout := xorout, mode := mode, phase := phase, err := err, errcode := code,
    pending := [], responses := [] }

/-- After LDRECIPE 0x00070000 (SMBUS). -/
def smbus : State := block 0x00#8 0x07#8 0x00#8 .normal .ready false 0#3

/-- After LDRECIPE 0x00310100 (MAXIM). -/
def maxim : State := block 0x00#8 0x8C#8 0x00#8 .reflected .ready false 0#3

/-- One command of the opcode table's word, as the first after `s`. -/
def runWord (s : State) (w : Nat) : Option State :=
  match step (s.withFetchWord 16 w) with
  | .next t => some t
  | .fault _ => none
  | .refused _ => none

/-- `s` with the given answers. -/
def answered (s : State) (rs : List RspWord) : State := { s with responses := rs }

/-! ## Well-formedness: an ill-formed term for each check -/

theorem test_wf_nop_refuses_operand : (Instr.nop 0x01#8).wellFormed = false := by decide
theorem test_wf_norm_refuses_operand : (Instr.norm 0xFF#8).wellFormed = false := by decide
theorem test_wf_fin_refuses_operand : (Instr.fin 0x80#8).wellFormed = false := by decide
theorem test_wf_clrerr_refuses_operand : (Instr.clrerr 0x01#8).wellFormed = false := by decide
theorem test_wf_ldmode_refuses_raw_zero : (Instr.ldmode 0x00#8).wellFormed = false := by decide
theorem test_wf_rd_refuses_five : (Instr.rd 0x05#8).wellFormed = false := by decide
theorem test_wf_admits_the_edges :
    (Instr.rd 0x04#8).wellFormed && (Instr.ldmode 0x01#8).wellFormed && (Instr.ldmode 0x80#8).wellFormed
      && (Instr.upd 0xFF#8).wellFormed = true := by decide

/-! ## Decoding: one word of each command, op in bits 15:8 and imm in bits 7:0 (R60, R62) -/

theorem test_decode_nop : decodeTableWord 16 0x0000 = some (.nop 0x00#8) := by decide
theorem test_decode_ldinit : decodeTableWord 16 0x01A5 = some (.ldinit 0xA5#8) := by decide
theorem test_decode_ldpoly : decodeTableWord 16 0x0231 = some (.ldpoly 0x31#8) := by decide
theorem test_decode_ldrefl : decodeTableWord 16 0x0301 = some (.ldrefl 0x01#8) := by decide
theorem test_decode_ldxor : decodeTableWord 16 0x0455 = some (.ldxor 0x55#8) := by decide
theorem test_decode_ldmode : decodeTableWord 16 0x0580 = some (.ldmode 0x80#8) := by decide
theorem test_decode_norm : decodeTableWord 16 0x1001 = some (.norm 0x01#8) := by decide
theorem test_decode_upd : decodeTableWord 16 0x2031 = some (.upd 0x31#8) := by decide
theorem test_decode_fin : decodeTableWord 16 0x3000 = some (.fin 0x00#8) := by decide
theorem test_decode_rd : decodeTableWord 16 0x4004 = some (.rd 0x04#8) := by decide
theorem test_decode_clrerr : decodeTableWord 16 0x5000 = some (.clrerr 0x00#8) := by decide
theorem test_decode_refuses_reserved_opcodes :
    [0x0600, 0x0FFF, 0x1100, 0x1FFF, 0x2F00, 0x3100, 0x4F00, 0x5100, 0x8000, 0xFFFF].map
      (decodeTableWord 16) = List.replicate 10 none := by decide

/-! ## One command each (95_test_vectors.md section 2.5, and the examples of the command rules) -/

theorem test_nop_from_reset : runWord .reset 0x0000 = some (answered .reset [0x0000#16]) := by decide
theorem test_nop_reserved_operand : runWord .reset 0x0001 =
    some (answered (block 0x00#8 0x00#8 0x00#8 .normal .raw true 4#3) [0x2400#16]) := by decide
theorem test_ldinit : runWord .reset 0x01A5 =
    some (answered (block 0xA5#8 0x00#8 0x00#8 .normal .raw false 0#3) [0x00A5#16]) := by decide
theorem test_ldpoly_makes_raw : runWord maxim 0x0231 =
    some (answered (block 0x00#8 0x31#8 0x00#8 .reflected .raw false 0#3) [0x0200#16]) := by decide
theorem test_ldrefl_ff_is_reflected : runWord .reset 0x03FF =
    some (answered (block 0x00#8 0x00#8 0x00#8 .reflected .raw false 0#3) [0x0200#16]) := by decide
theorem test_ldrefl_zero_keeps_poly : runWord maxim 0x0300 =
    some (answered (block 0x00#8 0x8C#8 0x00#8 .normal .raw false 0#3) [0x0000#16]) := by decide
theorem test_ldxor : runWord .reset 0x0455 =
    some (answered (block 0x00#8 0x00#8 0x55#8 .normal .raw false 0#3) [0x0000#16]) := by decide
theorem test_ldmode_on_ready : runWord maxim 0x0580 =
    some (answered (block 0x00#8 0x8C#8 0x00#8 .normal .ready false 0#3) [0x0100#16]) := by decide
theorem test_ldmode_reserved_operand : runWord .reset 0x0500 =
    some (answered (block 0x00#8 0x00#8 0x00#8 .normal .raw true 4#3) [0x2400#16]) := by decide
theorem test_norm_reverses : runWord (block 0x00#8 0x31#8 0x00#8 .reflected .raw false 0#3) 0x1000 =
    some (answered maxim [0x0300#16]) := by decide
theorem test_norm_operand_before_phase : runWord maxim 0x1001 =
    some (answered (block 0x00#8 0x8C#8 0x00#8 .reflected .ready true 4#3) [0x2700#16]) := by decide
theorem test_upd_smbus : runWord smbus 0x2031 =
    some (answered (block 0x97#8 0x07#8 0x00#8 .normal .ready false 0#3) [0x0197#16]) := by decide
theorem test_upd_raw_is_rejected : runWord .reset 0x2031 =
    some (answered (block 0x00#8 0x00#8 0x00#8 .normal .raw true 2#3) [0x1400#16]) := by decide
theorem test_fin_in_raw : runWord (block 0xAB#8 0x00#8 0x5A#8 .normal .raw false 0#3) 0x3000 =
    some (answered (block 0xF1#8 0x00#8 0x5A#8 .normal .raw false 0#3) [0x00F1#16]) := by decide
theorem test_fin_reserved_operand : runWord (block 0xAB#8 0x00#8 0x5A#8 .normal .raw false 0#3) 0x3001 =
    some (answered (block 0xAB#8 0x00#8 0x5A#8 .normal .raw true 4#3) [0x24AB#16]) := by decide
theorem test_rd_flag_smbus : runWord smbus 0x4002 = some (answered smbus [0x0180#16]) := by decide
theorem test_rd_five_is_rejected : runWord maxim 0x4005 =
    some (answered (block 0x00#8 0x8C#8 0x00#8 .reflected .ready true 4#3) [0x2700#16]) := by decide
theorem test_clrerr : runWord (block 0x00#8 0x00#8 0x00#8 .normal .raw true 2#3) 0x5000 =
    some (answered .reset [0x0000#16]) := by decide
theorem test_clrerr_reserved_operand_keeps_first_error :
    runWord (block 0x00#8 0x00#8 0x00#8 .normal .raw true 2#3) 0x5001 =
      some (answered (block 0x00#8 0x00#8 0x00#8 .normal .raw true 2#3) [0x1400#16]) := by decide
theorem test_illegal_opcode : runWord .reset 0x0600 =
    some (answered (block 0x00#8 0x00#8 0x00#8 .normal .raw true 1#3) [0x0C00#16]) := by decide
/-- P4 row 10 (95 section 3): a second NORM. -/
theorem test_second_norm : runWord smbus 0x1000 =
    some (answered (block 0x00#8 0x07#8 0x00#8 .normal .ready true 3#3) [0x1D00#16]) := by decide
/-- R160: a reset drops the word in flight and keeps what was answered. -/
theorem test_reset_event :
    step { maxim with pending := [.reset (some 0x2031#16)], responses := [0x0300#16] } =
      .next (answered .reset [0x0300#16]) := rfl

/-! ## The engine (95_test_vectors.md sections 1.1, 2.1, 2.2) -/

/-- "123456789". -/
def checkString : List Byte :=
  [0x31#8, 0x32#8, 0x33#8, 0x34#8, 0x35#8, 0x36#8, 0x37#8, 0x38#8, 0x39#8]

theorem test_rev8 : [0x01#8, 0x07#8, 0x31#8, 0xA7#8, 0xFE#8].map rev8 =
    [0x80#8, 0xE0#8, 0x8C#8, 0xE5#8, 0x7F#8] := by decide
theorem test_crcByte_normal : crcByte 0xFF#8 0x07#8 .normal 0x00#8 = 0xF3#8 := by decide
theorem test_crcByte_reflected : crcByte 0x00#8 0x8C#8 .reflected 0x01#8 = 0x5E#8 := by decide
theorem test_check_autosar : bulk 0xFF#8 0x2F#8 .normal checkString = 0x20#8 := by decide +kernel
theorem test_check_maxim : bulk 0x00#8 0x8C#8 .reflected checkString = 0xA1#8 := by decide +kernel
/-- R106's example. -/
theorem test_the_modes_differ : bulk 0x00#8 0x07#8 .normal checkString = 0xF4#8 ∧
    bulk 0x00#8 (rev8 0x07#8) .reflected checkString = 0x20#8 := by decide +kernel
theorem test_check_icode : bulk 0xFD#8 0x1D#8 .normal checkString = 0x7E#8 := by decide +kernel

/-! ## The host's sequences and the assembler (30_encoding.md R70 to R74) -/

theorem test_asm_ldrecipe : assembleLine "LDRECIPE 0x00310100".toList =
    .ok [0x0100#16, 0x0231#16, 0x0301#16, 0x0400#16, 0x1000#16] := by decide
theorem test_asm_ldvariant : assembleLine "LDVARIANT 0x00, 0x8C, 0x01, 0x00".toList =
    .ok [0x0100#16, 0x028C#16, 0x0501#16, 0x0400#16] := by decide
theorem test_asm_updn_bytes_and_text :
    assembleLine "UPDN 0x31, 50".toList = assembleLine "UPDN \"12\"".toList := by decide
/-- The model's choice, log entry 7: a literal directly after the mnemonic. -/
theorem test_asm_literal_without_blank : assembleLine "UPD'1'".toList = .ok [0x2031#16] := by decide
theorem test_asm_refuses_256 : assembleLine "UPD 256".toList = .error .badOperands := by decide
theorem test_asm_refuses_unknown : assembleLine "FOO 1".toList = .error .unknownMnemonic := by decide

/-! ## Witnesses: hypotheses of the statements that some state and operands meet -/

theorem witness_ResetValuesAndUpdRejected :
    ∀ w ∈ [0x01FF#16, 0x2031#16, 0x04FF#16, 0x1100#16], opField w ≠ 0x05#8 ∧ opField w ≠ 0x10#8 := by
  rw [← List.all_iff_forall_prop]
  decide

theorem witness_ResetEventRestoresEveryField :
    ({ maxim with pending := [.reset (some 0x2031#16), .command 0x0000#16] } : State).pending =
      .reset (some 0x2031#16) :: [.command 0x0000#16] := rfl

theorem witness_FlagViewByPhaseAndMode :
    (State.reset.phase = .raw ∧ State.reset.mode = .normal) ∧
    ((block 0#8 0#8 0#8 .reflected .raw false 0#3).phase = .raw ∧
      (block 0#8 0#8 0#8 .reflected .raw false 0#3).mode = .reflected) ∧
    (smbus.phase = .ready ∧ smbus.mode = .normal) ∧ (maxim.phase = .ready ∧ maxim.mode = .reflected) ∧
    0x01#8 ≠ 0x00#8 ∧ 0xFF#8 ≠ 0x00#8 := by decide

theorem witness_IllegalOpcodesAreRejected : ∀ w ∈ [0x06FF#16, 0x1100#16, 0x5100#16, 0xFFFF#16],
    opField w ∉ [0x00#8, 0x01#8, 0x02#8, 0x03#8, 0x04#8, 0x05#8, 0x10#8, 0x20#8, 0x30#8, 0x40#8, 0x50#8] := by
  rw [← List.all_iff_forall_prop]
  decide

/-- Also the operands of NopResult, NormResult, FinResult, ClrerrResult, LdmodeResult and RdResult. -/
theorem witness_ReservedOperandsAreRejected :
    (0x01#8 ≠ 0x00#8 ∧ 0xFF#8 ≠ 0x00#8) ∧
    (∀ imm ∈ [0x00#8, 0x02#8, 0x7F#8, 0x81#8], imm ≠ 0x80#8 ∧ imm ≠ 0x01#8) ∧
    (4 < (0x05#8).toNat ∧ 4 < (0xFF#8).toNat) ∧
    State.reset.err = false ∧ State.reset.errcode = 0#3 := by decide

theorem witness_EveryWordIsOneOfThreeKinds : State.reset.err = false ∧ State.reset.errcode = 0#3 := by decide

theorem witness_StepRunsTheDecodedCommand :
    (State.reset.present 0x2031#16).pending = .command 0x2031#16 :: [] ∧
    decode 0x2031#16 = .ok (.upd 0x31#8) ∧ decode 0x0600#16 = .error (.illegalOpcode 0x06#8) ∧
    State.reset.pending = [] := ⟨rfl, rfl, rfl, rfl⟩

theorem witness_RejectionRecordsTheFirstError :
    State.reset.err = false ∧ (block 0#8 0#8 0#8 .normal .raw true 2#3).err = true := by decide

theorem witness_RejectionIsPrecise :
    rejection 0x2031#16 .reset = some .notReady ∧ rejection 0x1000#16 maxim = some .alreadyReady ∧
    rejection 0x1001#16 maxim = some .badOperand ∧ rejection 0x0600#16 maxim = some .illegalOpcode := by
  decide

theorem witness_ErrorConditionsAndPriority :
    decode 0x0600#16 = .error (.illegalOpcode 0x06#8) ∧
    (decode 0x1001#16 = .ok (.norm 0x01#8) ∧ (Instr.norm 0x01#8).wellFormed = false) ∧
    (decode 0x2031#16 = .ok (.upd 0x31#8) ∧ (Instr.upd 0x31#8).wellFormed = true ∧
      State.reset.phase = .raw) ∧
    (decode 0x1000#16 = .ok (.norm 0x00#8) ∧ (Instr.norm 0x00#8).wellFormed = true ∧
      maxim.phase = .ready) ∧
    (decode 0x5000#16 = .ok (.clrerr 0x00#8) ∧ (Instr.clrerr 0x00#8).wellFormed = true) := by
  refine ⟨rfl, ⟨rfl, rfl⟩, ⟨rfl, rfl, rfl⟩, ⟨rfl, rfl, rfl⟩, ⟨rfl, rfl⟩⟩

/-- LdreflResult, LdmodeResult: each clause's operand. -/
theorem witness_LdreflResult_and_LdmodeResult :
    (∃ imm : Byte, imm = 0x00#8) ∧ (∃ imm : Byte, imm ≠ 0x00#8) ∧ (∃ imm : Byte, imm = 0x80#8) ∧
    (∃ imm : Byte, imm = 0x01#8) ∧ ∃ imm : Byte, imm ≠ 0x80#8 ∧ imm ≠ 0x01#8 :=
  ⟨⟨_, rfl⟩, ⟨0x01#8, by decide⟩, ⟨_, rfl⟩, ⟨_, rfl⟩, ⟨0x00#8, by decide⟩⟩

/-- NormResult, UpdResult, PhaseChangesOnlyByTheTable, BulkUpdate: a state for each clause. -/
theorem witness_NormResult_and_UpdResult :
    (∃ s : State, s.phase = .raw ∧ s.mode = .reflected) ∧ (∃ s : State, s.phase = .raw ∧ s.mode = .normal) ∧
    (∃ s : State, s.phase = .ready) :=
  ⟨⟨block 0#8 0x31#8 0#8 .reflected .raw false 0#3, rfl, rfl⟩, ⟨State.reset, rfl, rfl⟩, ⟨maxim, rfl⟩⟩

theorem witness_PhaseChangesOnlyByTheTable_and_ErrorRecordIsSticky :
    ({ maxim with pending := [.reset none] } : State).pending = .reset none :: [] := rfl

/-- A step that changes each field: CRC, POLY, XOROUT, MODE, PHASE, the error record. -/
theorem witness_FieldsChangeOnlyByTheirWriters :
    (∃ t, step (smbus.present 0x2031#16) = .next t ∧ t.crc ≠ smbus.crc) ∧
    (∃ t, step (State.reset.present 0x0231#16) = .next t ∧ t.poly ≠ State.reset.poly) ∧
    (∃ t, step (State.reset.present 0x0455#16) = .next t ∧ t.xorout ≠ State.reset.xorout) ∧
    (∃ t, step (State.reset.present 0x0301#16) = .next t ∧ t.mode ≠ State.reset.mode) ∧
    (∃ t, step (State.reset.present 0x1000#16) = .next t ∧ t.phase ≠ State.reset.phase) ∧
    (∃ t, step (State.reset.present 0x0600#16) = .next t ∧ t.err ≠ State.reset.err) := by
  refine ⟨⟨_, rfl, ?_⟩, ⟨_, rfl, ?_⟩, ⟨_, rfl, ?_⟩, ⟨_, rfl, ?_⟩, ⟨_, rfl, ?_⟩, ⟨_, rfl, ?_⟩⟩ <;> decide

/-- A word that meets the hypotheses of each clause of BytesAreReadOnlyByTheirReaders,
BitsAreReadOnlyByTheirReaders and XoroutWritersAndReaders. -/
theorem witness_FieldsAreReadOnlyByTheirReaders :
    (opField 0x4002#16 ≠ 0x10#8 ∧ opField 0x4002#16 ≠ 0x20#8 ∧ 0x4002#16 ≠ 0x4001#16) ∧
    (opField 0x4004#16 ≠ 0x30#8 ∧ 0x4004#16 ≠ 0x4003#16) ∧
    (opField 0x01FF#16 ≠ 0x20#8 ∧ opField 0x01FF#16 ≠ 0x30#8) ∧
    (opField 0x1000#16 ≠ 0x30#8 ∧ opField 0x1000#16 ≠ 0x40#8 ∧ opField 0x1000#16 ≠ 0x04#8) := by decide

theorem witness_XoroutWritersAndReaders :
    (∃ t, step (smbus.present 0x2031#16) = .next t) ∧
    presentsOneOf [0x04#8] (smbus.present 0x2031#16) = false := ⟨⟨_, rfl⟩, by decide⟩

theorem witness_ErrorRecordIsStickyAndBlocksNothing :
    (block 0#8 0#8 0#8 .normal .raw true 2#3).err = true ∧
    ∀ w ∈ [0x5001#16, 0x0600#16, 0x1000#16, 0x2031#16], w ≠ 0x5000#16 := by
  rw [← List.all_iff_forall_prop]
  decide

theorem witness_StepKeepsErrorRecordOk :
    ErrorRecordOk maxim ∧ ErrorRecordOk (block 0#8 0#8 0#8 .normal .raw true 4#3) ∧
    ∃ t, step (maxim.present 0x1000#16) = .next t := ⟨by decide, by decide, ⟨_, rfl⟩⟩

theorem witness_ReachableErrorCodes : Reachable (answered .reset [0x0000#16]) :=
  .step (State.reset.setPending [.command 0x0000#16]) _ (.host _ _ .reset) rfl

theorem witness_RdAndNopAreIdempotent :
    opField 0x4000#16 = 0x40#8 ∧ (immField 0x4000#16).toNat ≤ 4 ∧
    opField 0x4004#16 = 0x40#8 ∧ (immField 0x4004#16).toNat ≤ 4 := by decide

theorem witness_IncrementalEquivalence :
    smbus.phase = .ready ∧
    ∀ w ∈ [0x2031#16, 0x0000#16, 0x4001#16, 0x0455#16, 0x5000#16, 0x1000#16, 0x3001#16, 0x0500#16, 0x0600#16,
      0x2032#16], keepsMessage w = true := by
  rw [← List.all_iff_forall_prop]
  decide

/-- A seed, then a rejected UPD and an LDXOR in the RAW phase. -/
theorem witness_FinOnAFreshRecipe :
    ∃ s0, send (0x01#8 ++ 0xAB#8) .reset = .next s0 ∧
      ∀ pre w post, [0x2031#16, 0x045A#16] = pre ++ w :: post →
        opField w ≠ 0x01#8 ∧ opField w ≠ 0x30#8 ∧
          (opField w = 0x20#8 → ∀ u, sendAll pre s0 = .next u → u.phase = .raw) := by
  refine ⟨_, rfl, ?_⟩
  intro pre w post h
  rcases pre with _ | ⟨a, _ | ⟨b, pre⟩⟩
  · injection h with h _
    subst h
    exact ⟨by decide, by decide, fun _ u hu => by injection hu with hu; subst hu; rfl⟩
  · injection h with _ h
    injection h with h _
    subst h
    exact ⟨by decide, by decide, fun hw => absurd hw (by decide)⟩
  · simp at h

theorem witness_NormalizeIsNotRepeated_and_RenormalizingHazards :
    (maxim.phase = .ready ∧ maxim.mode = .reflected) ∧
    ∀ w ∈ [0x1000#16, 0x0580#16, 0x0501#16, 0x2031#16, 0x01FF#16, 0x0600#16],
      opField w ≠ 0x02#8 ∧ opField w ≠ 0x03#8 := by
  refine ⟨by decide, ?_⟩
  rw [← List.all_iff_forall_prop]
  decide

/-- Two FINs, the second after a NOP; before them a rejected UPD in the RAW phase. -/
theorem witness_FinParity :
    ∀ pre w post, [0x2031#16, 0x3000#16, 0x0000#16, 0x3000#16] = pre ++ w :: post →
      opField w ≠ 0x01#8 ∧ opField w ≠ 0x04#8 ∧
        (opField w = 0x20#8 → ∀ u, sendAll pre State.reset = .next u → u.phase = .raw) := by
  intro pre w post h
  rcases pre with _ | ⟨a, pre⟩
  · injection h with h _
    subst h
    exact ⟨by decide, by decide, fun _ u hu => by injection hu with hu; subst hu; rfl⟩
  · injection h with _ h
    have hw : w ∈ [0x3000#16, 0x0000#16, 0x3000#16] := by rw [h]; simp
    simp only [List.mem_cons, List.not_mem_nil, or_false] at hw
    rcases hw with rfl | rfl | rfl <;>
      exact ⟨by decide, by decide, fun hw => absurd hw (by decide)⟩

/-- The empty string, and one with a `;`. -/
theorem witness_UpdnExpansion :
    (∀ c ∈ ([] : List Char), c.toNat < 128 ∧ c ≠ '"') ∧
    ∀ c ∈ ['1', ';', ' ', '~'], c.toNat < 128 ∧ c ≠ '"' := by
  refine ⟨by simp, ?_⟩
  rw [← List.all_iff_forall_prop]
  decide

theorem witness_LdRecipeLoadsAndNormalizes :
    [0x0455#16, 0x0301#16, 0x0231#16, 0x01FF#16].Perm
      [0x01#8 ++ 0xFF#8, 0x02#8 ++ 0x31#8, 0x03#8 ++ 0x01#8, 0x04#8 ++ 0x55#8] := by decide

/-- Also of WholeChecksumByEitherPath. -/
theorem witness_LdVariantLoadsWithoutNormalizing :
    (0x80#8 = 0x80#8 ∨ 0x80#8 = 0x01#8) ∧ (0x01#8 = 0x80#8 ∨ 0x01#8 = 0x01#8) := by decide

theorem witness_AssembleAndPrintAgree :
    (takesNoOperand (.nop 0x00#8) = true → (Instr.nop 0x00#8).operand = 0x00#8) ∧
    (takesNoOperand (.rd 0xFF#8) = true → (Instr.rd 0xFF#8).operand = 0x00#8) := by decide

theorem witness_ReseedStartsTheNextMessage : smbus.phase = .ready := by decide

theorem witness_CommandsToDifferentInstancesCommute : (0 : Fin 2) ≠ (1 : Fin 2) := by decide

end Sys2Proof.Tests
end

section
/-!
SUPPORT. The decoder's inverse, the one description of what a command can do, and what follows for one
transaction: the layer the proofs about the whole machine stand on.
-/

namespace Sys2Proof

/-! ## Words and commands -/

@[simp] theorem opField_encode (i : Instr) : opField (encode i) = i.opcode := opField_cmdWord _ _

@[simp] theorem immField_encode (i : Instr) : immField (encode i) = i.operand := immField_cmdWord _ _

/-- The decoder reads back every command, whatever its operand (R62, R66). -/
@[simp] theorem decode_encode (i : Instr) : decode (encode i) = .ok i := by
  unfold decode
  rw [opField_encode, immField_encode]
  cases i <;> rfl

/-- A word with the opcode of a command is not rejected by decode (R63). -/
theorem decode_of_opField {w : CmdWord} {i : Instr} (h : opField w = i.opcode) :
    ∃ j, decode w = .ok j := by
  unfold decode
  rw [h]
  cases i <;> exact ⟨_, rfl⟩

/-- A word that decodes is the encoding of its command. -/
theorem encode_of_decode {w : CmdWord} {i : Instr} (h : decode w = .ok i) : encode i = w := by
  unfold decode at h
  split at h
  case h_12 => cases h
  all_goals
    rename_i hop
    cases h
    simp only [encode, Instr.opcode, Instr.operand, ← hop, cmdWord_fields]

/-- A word that is no command has the opcode of none. -/
theorem opField_ne_opcode {w : CmdWord} {e : DecodeError} (h : decode w = .error e) (i : Instr) :
    opField w ≠ i.opcode := by
  intro hop
  obtain ⟨j, hj⟩ := decode_of_opField hop
  rw [h] at hj
  cases hj

/-- A word that is no command is the encoding of none. -/
theorem ne_encode {w : CmdWord} {e : DecodeError} (h : decode w = .error e) (i : Instr) :
    w ≠ encode i :=
  fun hw => opField_ne_opcode h i (hw ▸ opField_encode i)

/-- Two commands with the same word are the same. -/
theorem encode_inj {i j : Instr} : encode i = encode j ↔ i = j := by
  refine ⟨fun h => ?_, congrArg encode⟩
  have hd := congrArg decode h
  rw [decode_encode, decode_encode] at hd
  exact Except.ok.inj hd

end Sys2Proof

namespace Sys2Proof.Machine

/-! ## What a command can do -/

/-- Every way a command can end: with one of the three errors, in the order of R144, or accepted with the
effect of its pseudocode. -/
inductive Effect (s : State) : Instr → State → Prop where
  | badOperand {i : Instr} (h : i.wellFormed = false) : Effect s i (raiseCmdError .badOperand s)
  | notReady (imm : Byte) (h : s.phase = .raw) : Effect s (.upd imm) (raiseCmdError .notReady s)
  | alreadyReady (h : s.phase = .ready) : Effect s (.norm 0x00#8) (raiseCmdError .alreadyReady s)
  | nop : Effect s (.nop 0x00#8) (respondCrc s)
  | ldinit (imm : Byte) : Effect s (.ldinit imm) (respondCrc (s.setCrc imm))
  | ldpoly (imm : Byte) : Effect s (.ldpoly imm) (respondCrc ((s.setPoly imm).setPhase .raw))
  | ldrefl (imm : Byte) :
      Effect s (.ldrefl imm) (respondCrc ((s.setMode (rawReflect imm)).setPhase .raw))
  | ldxor (imm : Byte) : Effect s (.ldxor imm) (respondCrc (s.setXorout imm))
  | ldmode {imm : Byte} {m : Mode} (h : normalizedFlag imm = some m) :
      Effect s (.ldmode imm) (respondCrc ((s.setMode m).setPhase .ready))
  | norm (h : s.phase = .raw) :
      Effect s (.norm 0x00#8) (respondCrc ((s.setPoly (normalizedPoly s)).setPhase .ready))
  | upd (imm : Byte) (h : s.phase = .ready) :
      Effect s (.upd imm) (respondCrc (s.setCrc (crcByte s.crc s.poly s.mode imm)))
  | fin : Effect s (.fin 0x00#8) (respondCrc (s.setCrc (s.crc ^^^ s.xorout)))
  | rd {imm d : Byte} (h : selectedValue imm s = some d) : Effect s (.rd imm) (respond d s)
  | clrerr : Effect s (.clrerr 0x00#8) (respondCrc (clearErrorRecord s))

/-- LDMODE's operand is legal exactly when it is a normalized flag byte. -/
theorem wellFormed_ldmode (imm : Byte) :
    (Instr.ldmode imm).wellFormed = (normalizedFlag imm).isSome := by
  rcases normalizedFlag_cases imm with ⟨rfl, h⟩ | ⟨rfl, h⟩ | ⟨h80, h01, h⟩ <;>
    simp [Instr.wellFormed, *]

/-- RD's operand is legal exactly when it selects a register. -/
theorem wellFormed_rd (imm : Byte) (s : State) :
    (Instr.rd imm).wellFormed = (selectedValue imm s).isSome := by
  rcases selectedValue_cases imm s with
    ⟨rfl, h⟩ | ⟨rfl, h⟩ | ⟨rfl, h⟩ | ⟨rfl, h⟩ | ⟨rfl, h⟩ | ⟨hlt, h⟩ <;>
    simp [Instr.wellFormed, *]

/-- A reserved operand is rejected whatever the state (R64). -/
theorem exec_badOperand {i : Instr} (h : i.wellFormed = false) (s : State) :
    exec i s = .next (raiseCmdError .badOperand s) := by
  cases i with
  | ldinit | ldpoly | ldrefl | ldxor | upd => cases h
  | nop | fin | clrerr => exact congrArg Host.Outcome.next (if_neg (Bool.eq_false_iff.mp h))
  | norm => exact congrArg Host.Outcome.next (if_pos (congrArg not h))
  | ldmode imm =>
    rw [wellFormed_ldmode, Option.isSome_eq_false_iff, Option.isNone_iff_eq_none] at h
    simp only [exec, execLdmode, h]
  | rd imm =>
    rw [wellFormed_rd imm s, Option.isSome_eq_false_iff, Option.isNone_iff_eq_none] at h
    simp only [exec, execRd, h]

/-- The effects of a command are what `exec` does. -/
theorem exec_of_effect {i : Instr} {s t : State} (h : Effect s i t) : exec i s = .next t := by
  cases h with
  | badOperand h => exact exec_badOperand h s
  | notReady imm h => simp only [exec, execUpd, h]
  | alreadyReady h => simp [exec, execNorm, h]
  | ldmode h => simp only [exec, execLdmode, h]
  | norm h => simp [exec, execNorm, h]
  | upd imm h => simp only [exec, execUpd, h]
  | rd h => simp only [exec, execRd, h]
  | nop | ldinit | ldpoly | ldrefl | ldxor | fin | clrerr => rfl

/-- Every command has an effect in every state. -/
theorem exists_effect (i : Instr) (s : State) : ∃ t, Effect s i t := by
  cases hw : i.wellFormed with
  | false => exact ⟨_, .badOperand hw⟩
  | true =>
    cases i with
    | ldinit imm => exact ⟨_, .ldinit imm⟩
    | ldpoly imm => exact ⟨_, .ldpoly imm⟩
    | ldrefl imm => exact ⟨_, .ldrefl imm⟩
    | ldxor imm => exact ⟨_, .ldxor imm⟩
    | nop imm => exact eq_of_beq hw ▸ ⟨_, .nop⟩
    | fin imm => exact eq_of_beq hw ▸ ⟨_, .fin⟩
    | clrerr imm => exact eq_of_beq hw ▸ ⟨_, .clrerr⟩
    | ldmode imm =>
      obtain ⟨m, hm⟩ := Option.isSome_iff_exists.mp (wellFormed_ldmode imm ▸ hw)
      exact ⟨_, .ldmode hm⟩
    | rd imm =>
      obtain ⟨d, hd⟩ := Option.isSome_iff_exists.mp (wellFormed_rd imm s ▸ hw)
      exact ⟨_, .rd hd⟩
    | norm imm =>
      obtain rfl : imm = 0x00#8 := eq_of_beq hw
      cases hp : s.phase with
      | raw => exact ⟨_, .norm hp⟩
      | ready => exact ⟨_, .alreadyReady hp⟩
    | upd imm =>
      cases hp : s.phase with
      | raw => exact ⟨_, .notReady imm hp⟩
      | ready => exact ⟨_, .upd imm hp⟩

/-- What `exec` does is an effect of the command. -/
theorem effect_of_exec {i : Instr} {s t : State} (h : exec i s = .next t) : Effect s i t := by
  obtain ⟨u, hu⟩ := exists_effect i s
  rw [exec_of_effect hu] at h
  cases h
  exact hu

/-! ## Facts about every command -/

/-- Every command ends in one response, on a state that has taken nothing from the port and answered
nothing yet (R68). -/
theorem Effect.responds {i : Instr} {s t : State} (h : Effect s i t) :
    ∃ d u, t = respond d u ∧ u.responses = s.responses ∧ u.pending = s.pending := by
  cases h with
  | badOperand | notReady | alreadyReady =>
    exact ⟨_, _, rfl, recordError_responses _ _, recordError_pending _ _⟩
  | nop | ldinit | ldpoly | ldrefl | ldxor | ldmode | norm | upd | fin | rd | clrerr =>
    exact ⟨_, _, rfl, rfl, rfl⟩

/-- Only LDXOR writes XOROUT (R24). -/
theorem Effect.xorout_eq {i : Instr} {s t : State} (h : Effect s i t)
    (hi : i.opcode ≠ 0x04#8) : t.xorout = s.xorout := by
  cases h with
  | badOperand | notReady | alreadyReady => exact raiseCmdError_xorout _ _
  | ldxor => exact absurd rfl hi
  | nop | ldinit | ldpoly | ldrefl | ldmode | norm | upd | fin | rd | clrerr => rfl

/-- Recording and answering an error does not read XOROUT. -/
theorem raiseCmdError_setXorout (e : CmdError) (s : State) (x : Byte) :
    raiseCmdError e (s.setXorout x) = (raiseCmdError e s).setXorout x := by
  unfold raiseCmdError
  cases he : s.err with
  | false =>
    rw [recordError_first e s he, recordError_first e (s.setXorout x) he]
    rfl
  | true =>
    rw [recordError_again e s he, recordError_again e (s.setXorout x) he]
    rfl

/-- A command other than FIN, RD and LDXOR has the same effect whatever XOROUT holds (R24). -/
theorem Effect.setXorout {i : Instr} {s t : State} (h : Effect s i t) (hfin : i.opcode ≠ 0x30#8)
    (hrd : i.opcode ≠ 0x40#8) (hxor : i.opcode ≠ 0x04#8) (x : Byte) :
    Effect (s.setXorout x) i (t.setXorout x) := by
  cases h with
  | badOperand h => exact raiseCmdError_setXorout _ s x ▸ .badOperand h
  | notReady imm h => exact raiseCmdError_setXorout _ s x ▸ .notReady imm h
  | alreadyReady h => exact raiseCmdError_setXorout _ s x ▸ .alreadyReady h
  | nop => exact .nop
  | ldinit imm => exact .ldinit imm
  | ldpoly imm => exact .ldpoly imm
  | ldrefl imm => exact .ldrefl imm
  | ldmode h => exact .ldmode h
  | norm h => exact .norm h
  | upd imm h => exact .upd imm h
  | clrerr => exact .clrerr
  | ldxor => exact absurd rfl hxor
  | fin => exact absurd rfl hfin
  | rd => exact absurd rfl hrd

/-- PHASE after a command: the table of R25. -/
theorem Effect.phase_eq {i : Instr} {s t : State} (h : Effect s i t) :
    t.phase =
      if i.opcode = 0x02#8 ∨ i.opcode = 0x03#8 then .raw
      else if i = .norm 0x00#8 ∧ s.phase = .raw then .ready
      else if i = .ldmode 0x80#8 ∨ i = .ldmode 0x01#8 then .ready
      else s.phase := by
  cases h with
  | badOperand h => cases i <;> simp_all [Instr.opcode, Instr.wellFormed]
  | @ldmode imm m h =>
    rcases normalizedFlag_cases imm with ⟨rfl, -⟩ | ⟨rfl, -⟩ | ⟨-, -, hnone⟩
    · rfl
    · rfl
    · rw [hnone] at h
      cases h
  | notReady | alreadyReady | nop | ldinit | ldpoly | ldrefl | ldxor | norm | upd | fin | rd
  | clrerr =>
    simp_all [Instr.opcode, respondCrc, clearErrorRecord]

/-! ## One transaction -/

/-- Every transaction is a rejection by decode or an effect of the word's command. -/
theorem send_cases (w : CmdWord) (s : State) :
    (∃ e, decode w = .error e ∧ send w s = .next (raiseCmdError .illegalOpcode s)) ∨
    (∃ i t, w = encode i ∧ send w s = .next t ∧ Effect s i t) := by
  cases hd : decode w with
  | error e => exact .inl ⟨e, rfl, send_of_error hd s⟩
  | ok i =>
    obtain ⟨t, ht⟩ := exists_effect i s
    exact .inr ⟨i, t, (encode_of_decode hd).symm, (send_of_ok hd s).trans (exec_of_effect ht), ht⟩

/-- Every transaction ends in one response, on a state that has answered nothing yet (R68). -/
theorem send_responds (w : CmdWord) (s : State) :
    ∃ d u, send w s = .next (respond d u) ∧ u.responses = s.responses ∧ u.pending = s.pending := by
  rcases send_cases w s with ⟨e, -, h⟩ | ⟨i, t, -, h, ht⟩
  · exact ⟨_, _, h, recordError_responses _ _, recordError_pending _ _⟩
  · obtain ⟨d, u, rfl, hu⟩ := ht.responds
    exact ⟨d, u, h, hu⟩

/-- What every word of a sequence keeps, the sequence keeps. -/
theorem sendAll_keeps {P : State → Prop} (ws : List CmdWord) (s : State) (hs : P s)
    (hkeep : ∀ w ∈ ws, ∀ s, P s → ∃ t, send w s = .next t ∧ P t) :
    ∃ t, sendAll ws s = .next t ∧ P t := by
  induction ws generalizing s with
  | nil => exact ⟨s, rfl, hs⟩
  | cons w ws ih =>
    obtain ⟨t, ht, hPt⟩ := hkeep w List.mem_cons_self s hs
    rw [sendAll_cons ht]
    exact ih t hPt fun v hv => hkeep v (List.mem_cons_of_mem w hv)

end Sys2Proof.Machine
end

section
/-!
The statements of 10_state.md: reset, the views STATUS and FLAG, PHASE, XOROUT, and several instances.
-/

namespace Sys2Proof.Machine

/-! ## PHASE -/

/-- PHASE after any word: the table of R25. -/
theorem send_phase (w : CmdWord) (s : State) : ∃ t, send w s = .next t ∧
    t.phase =
      if opField w = 0x02#8 ∨ opField w = 0x03#8 then .raw
      else if w = 0x1000#16 ∧ s.phase = .raw then .ready
      else if w = 0x0580#16 ∨ w = 0x0501#16 then .ready
      else s.phase := by
  rcases send_cases w s with ⟨e, hd, h⟩ | ⟨i, t, rfl, h, ht⟩
  · refine ⟨_, h, ?_⟩
    have hldpoly : opField w ≠ 0x02#8 := opField_ne_opcode hd (.ldpoly 0x00#8)
    have hldrefl : opField w ≠ 0x03#8 := opField_ne_opcode hd (.ldrefl 0x00#8)
    have hnorm : w ≠ 0x1000#16 := ne_encode hd (.norm 0x00#8)
    have hnormal : w ≠ 0x0580#16 := ne_encode hd (.ldmode 0x80#8)
    have hreflected : w ≠ 0x0501#16 := ne_encode hd (.ldmode 0x01#8)
    simp [hldpoly, hldrefl, hnorm, hnormal, hreflected]
  · refine ⟨t, h, ?_⟩
    have hnorm : (0x1000#16 : CmdWord) = encode (.norm 0x00#8) := rfl
    have hnormal : (0x0580#16 : CmdWord) = encode (.ldmode 0x80#8) := rfl
    have hreflected : (0x0501#16 : CmdWord) = encode (.ldmode 0x01#8) := rfl
    rw [ht.phase_eq, opField_encode, hnorm, hnormal, hreflected]
    simp only [encode_inj]

/-- A word that is neither LDMODE nor NORM leaves a recipe that is not normalized so. -/
theorem send_keeps_raw {w : CmdWord} (hldmode : opField w ≠ 0x05#8) (hnorm : opField w ≠ 0x10#8)
    {s : State} (hs : s.phase = .raw) : ∃ t, send w s = .next t ∧ t.phase = .raw := by
  obtain ⟨t, h, ht⟩ := send_phase w s
  have hnorm0 : w ≠ 0x1000#16 := fun hw => hnorm (hw ▸ rfl)
  have hnormal : w ≠ 0x0580#16 := fun hw => hldmode (hw ▸ rfl)
  have hreflected : w ≠ 0x0501#16 := fun hw => hldmode (hw ▸ rfl)
  refine ⟨t, h, ?_⟩
  simp [ht, hs, hnorm0, hnormal, hreflected]

/-- A step whose next event is a reset resets the block (R160). -/
theorem step_reset {s : State} {f : Option CmdWord} {rest : List PortEvent}
    (h : s.pending = .reset f :: rest) : step s = .next (applyReset f (s.setPending rest)) := by
  simp only [step, takeEvent, h]

/-- Settles O28, by the table of R25 for every word and the two phase rejections. -/
theorem phaseChangesOnlyByTheTable : Obligations.PhaseChangesOnlyByTheTable :=
  ⟨send_phase, fun _ _ _ h => ⟨_, step_reset h, rfl⟩,
    fun _ b h => exec_of_effect (.notReady b h), fun _ h => exec_of_effect (.alreadyReady h)⟩

/-! ## Reset -/

/-- Settles O1: PHASE = RAW is kept from reset by every word but LDMODE and NORM. -/
theorem resetValuesAndUpdRejected : Obligations.ResetValuesAndUpdRejected := by
  refine ⟨⟨rfl, rfl, rfl, rfl, rfl, rfl, rfl⟩, by decide, rfl, fun ws hws => ?_⟩
  obtain ⟨t, ht, hraw⟩ := sendAll_keeps (P := fun s => s.phase = .raw) ws State.reset rfl
    fun w hw _ hs => send_keeps_raw (hws w hw).1 (hws w hw).2 hs
  exact ⟨t, ht, fun b => exec_of_effect (.notReady b hraw)⟩

/-! ## The views -/

/-- The fields of STATUS, from bit 7 down to bit 0 (R27): it takes 64 values. -/
theorem statusOf_fields (s : State) :
    (statusOf s).extractLsb' 6 2 = 0#2 ∧ (statusOf s).extractLsb' 3 3 = s.errcode ∧
      (statusOf s).getLsbD 2 = s.err ∧ (statusOf s).getLsbD 1 = decide (s.mode = .reflected) ∧
      (statusOf s).getLsbD 0 = decide (s.phase = .ready) := by
  unfold statusOf
  generalize s.errcode = c, s.err = e
  cases s.mode <;> cases s.phase <;> revert c e <;> decide

/-- STATUS is the high byte of the response a command ends in (R68). -/
theorem respond_status (d : Byte) (s : State) :
    ∃ r, (respond d s).responses = s.responses ++ [r] ∧
      r.extractLsb' 8 8 = statusOf (respond d s) :=
  ⟨_, rfl, opField_cmdWord (statusOf s) d⟩

/-- Settles O3, by STATUS's bits and the one response every transaction ends in. -/
theorem statusBitsAndWhereTheyShow : Obligations.StatusBitsAndWhereTheyShow := by
  intro s
  obtain ⟨hzero, hcode, herr, hrefl, hready⟩ := statusOf_fields s
  refine ⟨hzero, hcode, herr, hrefl, hready, fun w => ?_, exec_of_effect (.rd rfl)⟩
  obtain ⟨d, u, h, hu, -⟩ := send_responds w s
  obtain ⟨r, hr, hstatus⟩ := respond_status d u
  exact ⟨_, r, h, hu ▸ hr, hstatus⟩

/-- FLAG is 0x01 in Reflected mode, in either phase (R28). -/
theorem flagOf_reflected {s : State} (h : s.mode = .reflected) : flagOf s = 0x01#8 := by
  unfold flagOf
  rw [h]
  cases s.phase <;> rfl

/-- Settles O4; LDREFL with a nonzero operand selects Reflected mode, whose FLAG is 0x01. -/
theorem flagViewByPhaseAndMode : Obligations.FlagViewByPhaseAndMode := by
  intro s
  refine ⟨fun hp hm => ?_, fun _ hm => flagOf_reflected hm, fun hp hm => ?_,
    fun _ hm => flagOf_reflected hm, exec_of_effect (.rd rfl), fun imm himm => ?_⟩
  · simp only [flagOf, hp, hm]
  · simp only [flagOf, hp, hm]
  · exact ⟨_, exec_of_effect (.ldrefl imm), flagOf_reflected (if_neg himm)⟩

/-! ## XOROUT -/

/-- A step whose event is neither LDXOR nor a reset keeps XOROUT (R24). -/
theorem step_xorout {s t : State} (h : step s = .next t) (hev : presentsOneOf [0x04#8] s = false) :
    t.xorout = s.xorout := by
  rcases step_cases h with
    ⟨-, rfl⟩ | ⟨f, es, hp, -⟩ | ⟨w, es, e, -, -, rfl⟩ | ⟨w, es, i, hp, hd, hexec⟩
  · rfl
  · simp [presentsOneOf, hp] at hev
  · exact raiseCmdError_xorout _ _
  · have hop : i.opcode ≠ 0x04#8 := by
      simpa [presentsOneOf, hp, ← encode_of_decode hd] using hev
    exact (effect_of_exec hexec).xorout_eq hop

/-- A word that is not FIN, RD or LDXOR does the same whatever XOROUT holds (R24). -/
theorem send_setXorout {w : CmdWord} (hfin : opField w ≠ 0x30#8) (hrd : opField w ≠ 0x40#8)
    (hxor : opField w ≠ 0x04#8) (s : State) (x : Byte) :
    ∃ t, send w s = .next t ∧ send w (s.setXorout x) = .next (t.setXorout x) := by
  rcases send_cases w s with ⟨e, hd, h⟩ | ⟨i, t, rfl, h, ht⟩
  · refine ⟨_, h, ?_⟩
    rw [send_of_error hd, raiseCmdError_setXorout]
  · refine ⟨t, h, ?_⟩
    rw [opField_encode] at hfin hrd hxor
    rw [send_of_ok (decode_encode i), exec_of_effect (ht.setXorout hfin hrd hxor x)]

/-- Settles O32, by the writers and readers of XOROUT among the effects of a command. -/
theorem xoroutWritersAndReaders : Obligations.XoroutWritersAndReaders :=
  ⟨fun _ _ => step_xorout, fun _ s x hfin hrd hxor => send_setXorout hfin hrd hxor s x,
    fun _ => ⟨_, exec_of_effect .fin, rfl⟩, fun _ => exec_of_effect (.rd rfl),
    fun _ imm => ⟨_, exec_of_effect (.ldxor imm), rfl⟩⟩

/-! ## Several instances -/

/-- A command to block `k` is that block's own transaction, put back in its place (R34). -/
theorem System.sendAt_of_next {n : Nat} {k : Fin n} {w : CmdWord} {sys : System n} {t : State}
    (h : send w sys.blocks[k] = .next t) :
    System.sendAt k w sys = .next { blocks := sys.blocks.set k t } := by
  rw [System.sendAt, System.stepAt_of_next (t := t)]
  · simp
  · simpa [send] using h

/-- Settles O59: the system's next state is the old one with block `k` replaced. -/
theorem instancesShareNoState : Obligations.InstancesShareNoState := by
  intro n k w sys
  obtain ⟨d, u, h, -⟩ := send_responds w sys.blocks[k]
  refine ⟨_, _, h, System.sendAt_of_next h, by simp, fun j hjk => ?_⟩
  have hval : (k : Nat) ≠ j := fun hkj => hjk (Fin.ext hkj.symm)
  simp [hval]

end Sys2Proof.Machine
end

section
/-!
The statement of 20_memory.md: commands to different instances commute.
-/

namespace Sys2Proof.Machine

/-- A command to block `k` does the same after another block `j` has changed (R34). -/
theorem System.sendAt_of_next_after_set {n : Nat} {j k : Fin n} {w : CmdWord} {sys : System n}
    {t u : State} (hjk : j ≠ k) (h : send w sys.blocks[k] = .next u) :
    System.sendAt k w { blocks := sys.blocks.set j t } =
      .next { blocks := (sys.blocks.set j t).set k u } := by
  have hkept : (sys.blocks.set j t)[k] = sys.blocks[k] :=
    Vector.getElem_set_ne j.isLt k.isLt (Fin.val_ne_of_ne hjk)
  exact System.sendAt_of_next (hkept ▸ h)

/-- Settles O60: each command replaces its own block only, and replacements at two places commute. -/
theorem commandsToDifferentInstancesCommute : Obligations.CommandsToDifferentInstancesCommute := by
  intro n j k v w sys hjk
  obtain ⟨_, _, hv, -⟩ := send_responds v sys.blocks[j]
  obtain ⟨_, _, hw, -⟩ := send_responds w sys.blocks[k]
  refine ⟨_, _, _, System.sendAt_of_next hv, System.sendAt_of_next_after_set hjk hw,
    System.sendAt_of_next hw, ?_⟩
  rw [System.sendAt_of_next_after_set hjk.symm hv, Vector.set_comm _ _ (Fin.val_ne_of_ne hjk)]

end Sys2Proof.Machine
end

section
/-!
The statements of 30_encoding.md: the opcode map, the reserved operands and illegal opcodes, the response, and the
words of the pseudo-instructions with what they load.
-/

namespace Sys2Proof

/-! ## The opcode map -/

/-- The opcode column of R62, one command for each row. -/
def opcodes : List Byte :=
  [.nop 0x00#8, .ldinit 0x00#8, .ldpoly 0x00#8, .ldrefl 0x00#8, .ldxor 0x00#8, .ldmode 0x00#8, .norm 0x00#8,
    .upd 0x00#8, .fin 0x00#8, .rd 0x00#8, .clrerr 0x00#8].map Instr.opcode

/-- The opcode map holds the opcodes of the commands and no other (R62). -/
theorem mem_opcodes_iff (op : Byte) : op ∈ opcodes ↔ ∃ i : Instr, i.opcode = op := by
  constructor
  · intro h
    obtain ⟨i, -, hi⟩ := List.mem_map.mp h
    exact ⟨i, hi⟩
  · rintro ⟨i, rfl⟩
    cases i <;> simp [opcodes, Instr.opcode]

/-- The one reason the decoder gives (R63). -/
theorem decode_error_eq {w : CmdWord} {e : DecodeError} (h : decode w = .error e) :
    e = .illegalOpcode (opField w) := by
  unfold decode at h
  split at h
  case h_12 => exact (Except.error.inj h).symm
  all_goals cases h

/-- A word decodes to nothing exactly when its opcode is not in the opcode map (R63). -/
theorem decode_eq_error_iff (w : CmdWord) :
    decode w = .error (.illegalOpcode (opField w)) ↔ opField w ∉ opcodes := by
  rw [mem_opcodes_iff]
  constructor
  · rintro h ⟨i, hi⟩
    exact opField_ne_opcode h i hi.symm
  · intro h
    cases hd : decode w with
    | error e => rw [decode_error_eq hd]
    | ok i => exact absurd ⟨i, encode_of_decode hd ▸ (opField_encode i).symm⟩ h

/-- All but eleven of the 256 opcodes are outside the opcode map (R63). -/
theorem countP_not_mem_opcodes :
    (List.range 256).countP (fun n => BitVec.ofNat 8 n ∉ opcodes) = 245 := by decide +kernel

/-- Settles O5: the decoder reads back every command, and each operand check is one comparison. -/
theorem opcodeMapAndLegalOperands : Obligations.OpcodeMapAndLegalOperands := by
  intro imm
  exact ⟨⟨decode_encode (.nop imm), beq_iff_eq⟩, ⟨decode_encode (.ldinit imm), rfl⟩,
    ⟨decode_encode (.ldpoly imm), rfl⟩, ⟨decode_encode (.ldrefl imm), rfl⟩,
    ⟨decode_encode (.ldxor imm), rfl⟩,
    ⟨decode_encode (.ldmode imm), by simp [Instr.wellFormed]⟩,
    ⟨decode_encode (.norm imm), beq_iff_eq⟩, ⟨decode_encode (.upd imm), rfl⟩,
    ⟨decode_encode (.fin imm), beq_iff_eq⟩, ⟨decode_encode (.rd imm), decide_eq_true_iff⟩,
    ⟨decode_encode (.clrerr imm), beq_iff_eq⟩⟩

end Sys2Proof

namespace Sys2Proof.Machine

/-! ## Rejected words -/

/-- Settles O6, by the opcodes of the map and the rejection by decode. -/
theorem illegalOpcodesAreRejected : Obligations.IllegalOpcodesAreRejected := by
  refine ⟨decode_eq_error_iff, countP_not_mem_opcodes, rfl, fun w s h => ?_⟩
  exact ⟨send_of_error ((decode_eq_error_iff w).mpr h) s, raiseCmdError_crc _ s, raiseCmdError_poly _ s,
    raiseCmdError_xorout _ s, raiseCmdError_mode _ s, raiseCmdError_phase _ s⟩

/-- With no error recorded, a command with a legal operand records neither an opcode nor an operand error. -/
theorem Effect.errcode_of_wellFormed {i : Instr} {s t : State} (h : Effect s i t)
    (hw : i.wellFormed = true) (herr : s.err = false) (hcode : s.errcode = 0#3) :
    t.errcode ≠ 1#3 ∧ t.errcode ≠ 4#3 := by
  cases h with
  | badOperand hbad => exact absurd (hbad.symm.trans hw) Bool.false_ne_true
  | notReady | alreadyReady => simp [herr, CmdError.code]
  | nop | ldinit | ldpoly | ldrefl | ldxor | ldmode | norm | upd | fin | rd | clrerr =>
    simp [respondCrc, clearErrorRecord, hcode]

/-- A command with a legal operand answers, and records neither an opcode nor an operand error. -/
theorem exec_of_wellFormed {i : Instr} (hw : i.wellFormed = true) (s : State) :
    ∃ t, exec i s = .next t ∧
      (s.err = false → s.errcode = 0#3 → t.errcode ≠ 1#3 ∧ t.errcode ≠ 4#3) := by
  obtain ⟨t, ht⟩ := exists_effect i s
  exact ⟨t, exec_of_effect ht, ht.errcode_of_wellFormed hw⟩

/-- Settles O7: an operand that is not legal is rejected whatever the state, and five commands have none. -/
theorem reservedOperandsAreRejected : Obligations.ReservedOperandsAreRejected := by
  refine ⟨rfl, fun s imm => ⟨fun h => ?_, fun h80 h01 => ?_, fun h => ?_, fun i hi => ?_⟩⟩
  · have hbad : (imm == 0x00#8) = false := beq_false_of_ne h
    exact ⟨exec_badOperand (i := .nop imm) hbad s, exec_badOperand (i := .norm imm) hbad s,
      exec_badOperand (i := .fin imm) hbad s, exec_badOperand (i := .clrerr imm) hbad s⟩
  · exact exec_badOperand (by simp [Instr.wellFormed, h80, h01]) s
  · exact exec_badOperand (i := .rd imm) (decide_eq_false (Nat.not_le.mpr h)) s
  · have hw : i.wellFormed = true := by rcases hi with rfl | rfl | rfl | rfl | rfl <;> rfl
    obtain ⟨t, ht, hcode⟩ := exec_of_wellFormed hw s
    exact ⟨t, ht, fun herr hzero => (hcode herr hzero).2⟩

/-- A word rejected from reset leaves its error's code. -/
theorem errcode_of_send_reset {w : CmdWord} {e : CmdError} {t : State}
    (h : send w .reset = .next t) (hrej : ∀ s, send w s = .next (raiseCmdError e s)) : t.errcode = e.code := by
  cases h.symm.trans (hrej .reset)
  rfl

/-- Settles O8: a word that is no command, a command with a reserved operand, or a command with a legal one;
the code recorded from reset tells the three apart. -/
theorem everyWordIsOneOfThreeKinds : Obligations.EveryWordIsOneOfThreeKinds := by
  intro w
  cases hd : decode w with
  | error e =>
    have hillegal := send_of_error hd
    refine .inr (.inr ⟨?_, fun hbad => ?_, hillegal⟩)
    · rintro ⟨⟨i, hi, -⟩, -⟩
      cases hi
    · exact absurd (errcode_of_send_reset (hillegal .reset) hbad) (by decide)
  | ok i =>
    cases hw : i.wellFormed with
    | false =>
      have hbad (s : State) := (send_of_ok hd s).trans (exec_badOperand hw s)
      refine .inr (.inl ⟨?_, hbad, fun hillegal => ?_⟩)
      · rintro ⟨⟨j, hj, hwj⟩, -⟩
        cases hj
        exact Bool.false_ne_true (hw.symm.trans hwj)
      · exact absurd (errcode_of_send_reset (hbad .reset) hillegal) (by decide)
    | true =>
      have hok (s : State) (herr : s.err = false) (hzero : s.errcode = 0#3) :
          ∃ t, send w s = .next t ∧ t.errcode ≠ 1#3 ∧ t.errcode ≠ 4#3 := by
        obtain ⟨t, ht, hcode⟩ := exec_of_wellFormed hw s
        exact ⟨t, (send_of_ok hd s).trans ht, hcode herr hzero⟩
      obtain ⟨t, ht, h1, h4⟩ := hok .reset rfl rfl
      exact .inl ⟨⟨⟨i, rfl, hw⟩, hok⟩, fun hbad => h4 (errcode_of_send_reset ht hbad),
        fun hillegal => h1 (errcode_of_send_reset ht hillegal)⟩

/-! ## The response -/

/-- The word a rejected command answers: STATUS with the error recorded, and CRC (R68). -/
theorem raiseCmdError_responses (e : CmdError) (s : State) : (raiseCmdError e s).responses =
    s.responses ++ [statusOf (raiseCmdError e s) ++ (raiseCmdError e s).crc] := by
  have h : (raiseCmdError e s).responses =
      (recordError e s).responses ++ [statusOf (raiseCmdError e s) ++ (raiseCmdError e s).crc] := rfl
  rw [h, recordError_responses]

/-- DATA of R68, for a command that takes `s` to `t`: the register RD selects, and for every other command CRC. -/
def responseData (i : Instr) (s t : State) : Byte :=
  if i = .rd 0x01#8 then s.poly else if i = .rd 0x02#8 then flagOf s
  else if i = .rd 0x03#8 then s.xorout else if i = .rd 0x04#8 then statusOf s else t.crc

/-- A command that reads no register but CRC answers with CRC. -/
theorem responseData_of_ne_rd {i : Instr}
    (h : ∀ imm ∈ [0x01#8, 0x02#8, 0x03#8, 0x04#8], i ≠ .rd imm) (s t : State) :
    responseData i s t = t.crc := by
  simp only [List.mem_cons, List.not_mem_nil, or_false, forall_eq_or_imp, forall_eq] at h
  obtain ⟨hpoly, hflag, hxorout, hstatus⟩ := h
  simp only [responseData, if_neg hpoly, if_neg hflag, if_neg hxorout, if_neg hstatus]

/-- An accepted RD answers with the register it selects. -/
theorem responseData_rd {imm d : Byte} {s : State} (h : selectedValue imm s = some d) :
    responseData (.rd imm) s (respond d s) = d := by
  rcases selectedValue_cases imm s with
    ⟨rfl, hd⟩ | ⟨rfl, hd⟩ | ⟨rfl, hd⟩ | ⟨rfl, hd⟩ | ⟨rfl, hd⟩ | ⟨-, hd⟩
  case inr.inr.inr.inr.inr => cases hd.symm.trans h
  all_goals
    cases hd.symm.trans h
    rfl

/-- Every command appends one word to the responses: STATUS after it, and DATA (R68). -/
theorem Effect.responses_eq {i : Instr} {s t : State} (h : Effect s i t) :
    t.responses = s.responses ++ [statusOf t ++ responseData i s t] := by
  cases h with
  | @badOperand i hbad =>
    have hi : ∀ imm ∈ [0x01#8, 0x02#8, 0x03#8, 0x04#8], i ≠ .rd imm := by
      rintro imm himm rfl
      revert imm
      decide
    rw [responseData_of_ne_rd hi]
    exact raiseCmdError_responses _ s
  | notReady | alreadyReady => exact raiseCmdError_responses _ s
  | rd h =>
    rw [responseData_rd h]
    rfl
  | nop | ldinit | ldpoly | ldrefl | ldxor | ldmode | norm | upd | fin | clrerr => rfl

/-- Settles O16, by the response of a rejection by decode and that of a command. -/
theorem everyCommandAnswersOneWord : Obligations.EveryCommandAnswersOneWord := by
  intro w s
  rcases send_cases w s with ⟨e, hd, h⟩ | ⟨i, t, rfl, h, ht⟩
  · have hpoly : w ≠ 0x4001#16 := ne_encode hd (.rd 0x01#8)
    have hflag : w ≠ 0x4002#16 := ne_encode hd (.rd 0x02#8)
    have hxorout : w ≠ 0x4003#16 := ne_encode hd (.rd 0x03#8)
    have hstatus : w ≠ 0x4004#16 := ne_encode hd (.rd 0x04#8)
    refine ⟨_, _, h, raiseCmdError_responses _ s, ?_⟩
    simp only [if_neg hpoly, if_neg hflag, if_neg hxorout, if_neg hstatus]
  · have hpoly : (0x4001#16 : CmdWord) = encode (.rd 0x01#8) := rfl
    have hflag : (0x4002#16 : CmdWord) = encode (.rd 0x02#8) := rfl
    have hxorout : (0x4003#16 : CmdWord) = encode (.rd 0x03#8) := rfl
    have hstatus : (0x4004#16 : CmdWord) = encode (.rd 0x04#8) := rfl
    refine ⟨t, _, h, ht.responses_eq, ?_⟩
    simp only [hpoly, hflag, hxorout, hstatus, encode_inj, responseData]

/-! ## Loading a recipe -/

/-- `s` after the further responses `rs`. -/
def State.answered (rs : List RspWord) (s : State) : State := { s with responses := s.responses ++ rs }

theorem State.answered_nil (s : State) : s.answered [] = s := by
  rw [answered, List.append_nil]

theorem State.answered_answered (rs qs : List RspWord) (s : State) :
    (s.answered rs).answered qs = s.answered (rs ++ qs) := by
  rw [answered, answered, answered, List.append_assoc]

/-- The response of a command is one word. -/
theorem respond_eq_answered (d : Byte) (s : State) : respond d s = s.answered [statusOf s ++ d] := rfl

/-- The commands that load a field of the recipe, LDMODE with a legal operand only (R82 to R86). -/
inductive Loads : Instr → Prop where
  | ldinit (imm : Byte) : Loads (.ldinit imm)
  | ldpoly (imm : Byte) : Loads (.ldpoly imm)
  | ldrefl (imm : Byte) : Loads (.ldrefl imm)
  | ldxor (imm : Byte) : Loads (.ldxor imm)
  | ldmode {imm : Byte} {m : Mode} (h : normalizedFlag imm = some m) : Loads (.ldmode imm)

/-- What a load command writes (R82 to R86). -/
def loadField (s : State) : Instr → State
  | .ldinit imm => s.setCrc imm
  | .ldpoly imm => (s.setPoly imm).setPhase .raw
  | .ldrefl imm => (s.setMode (rawReflect imm)).setPhase .raw
  | .ldxor imm => s.setXorout imm
  | .ldmode imm => (normalizedFlag imm).elim s fun m => (s.setMode m).setPhase .ready
  | _ => s

/-- A load command is accepted in every state, and answers CRC. -/
theorem exec_load {i : Instr} (h : Loads i) (s : State) :
    exec i s = .next (respondCrc (loadField s i)) := by
  cases h with
  | ldmode hm => rw [exec_of_effect (.ldmode hm), loadField, hm, Option.elim_some]
  | ldinit | ldpoly | ldrefl | ldxor => rfl

/-- What a load command writes does not depend on the responses so far. -/
theorem loadField_answered (rs : List RspWord) (s : State) (i : Instr) :
    loadField (s.answered rs) i = (loadField s i).answered rs := by
  cases i with
  | ldmode imm => cases hm : normalizedFlag imm <;> simp only [loadField, hm] <;> rfl
  | nop | ldinit | ldpoly | ldrefl | ldxor | norm | upd | fin | rd | clrerr => rfl

/-- Nor does what a sequence of load commands writes. -/
theorem foldl_loadField_answered (rs : List RspWord) (is : List Instr) (s : State) :
    is.foldl loadField (s.answered rs) = (is.foldl loadField s).answered rs := by
  induction is generalizing s with
  | nil => rfl
  | cons i is ih => rw [List.foldl_cons, loadField_answered, ih, List.foldl_cons]

/-- A sequence of load commands writes their fields one after the other, and answers. -/
theorem sendAll_loads (is : List Instr) (h : ∀ i ∈ is, Loads i) (s : State) :
    ∃ rs, sendAll (is.map encode) s = .next ((is.foldl loadField s).answered rs) := by
  induction is generalizing s with
  | nil => exact ⟨[], congrArg _ (State.answered_nil s).symm⟩
  | cons i is ih =>
    have hi : send (encode i) s = .next (respondCrc (loadField s i)) :=
      (send_of_ok (decode_encode i) s).trans (exec_load (h i List.mem_cons_self) s)
    obtain ⟨rs, hrs⟩ := ih (fun j hj => h j (List.mem_cons_of_mem i hj)) (respondCrc (loadField s i))
    refine ⟨[statusOf (loadField s i) ++ (loadField s i).crc] ++ rs, ?_⟩
    rw [List.map_cons, sendAll_cons hi, hrs, List.foldl_cons, respondCrc, respond_eq_answered,
      foldl_loadField_answered, State.answered_answered]

/-- A sequence that answers, and the words after it. -/
theorem sendAll_append {ws : List CmdWord} {s t : State} (h : sendAll ws s = .next t)
    (vs : List CmdWord) : sendAll (ws ++ vs) s = sendAll vs t := by
  induction ws generalizing s with
  | nil =>
    cases h
    rfl
  | cons w ws ih =>
    obtain ⟨d, u, hu, -⟩ := send_responds w s
    rw [sendAll_cons hu] at h
    rw [List.cons_append, sendAll_cons hu, ih h]

/-- After any word, LDPOLY or LDREFL leaves the recipe raw (R25). -/
theorem sendAll_pair_raw {v : CmdWord} (hv : opField v = 0x02#8 ∨ opField v = 0x03#8) (w : CmdWord)
    (s : State) : ∃ t, sendAll [w, v] s = .next t ∧ t.phase = .raw := by
  obtain ⟨t, ht, -⟩ := send_phase w s
  obtain ⟨u, hu, hphase⟩ := send_phase v t
  exact ⟨u, by rw [sendAll_cons ht, sendAll_cons hu, sendAll_nil], hphase.trans (if_pos hv)⟩

/-! ## LDRECIPE -/

/-- A byte of a word that has another byte appended below it. -/
theorem extractByte_append {n k : Nat} (w : BitVec n) (b : Byte) :
    (w ++ b).extractLsb' (k + 8) 8 = w.extractLsb' k 8 :=
  BitVec.extractLsb'_append_eq_of_le (Nat.le_add_left 8 k)

/-- The bytes of a recipe written from its bytes (R69). -/
theorem recipe_fields (ii pp rr xx : Byte) :
    recipeInit (ii ++ pp ++ rr ++ xx) = ii ∧ recipePoly (ii ++ pp ++ rr ++ xx) = pp ∧
      recipeRefl (ii ++ pp ++ rr ++ xx) = rr ∧ recipeXor (ii ++ pp ++ rr ++ xx) = xx := by
  have hpp : (ii ++ pp).extractLsb' 0 8 = pp := BitVec.extractLsb'_append_eq_right
  have hrr : (ii ++ pp ++ rr).extractLsb' 0 8 = rr := BitVec.extractLsb'_append_eq_right
  have hxx : (ii ++ pp ++ rr ++ xx).extractLsb' 0 8 = xx := BitVec.extractLsb'_append_eq_right
  exact ⟨(extractByte_append _ xx).trans ((extractByte_append _ rr).trans
      ((extractByte_append ii pp).trans BitVec.extractLsb'_eq_self)),
    (extractByte_append _ xx).trans ((extractByte_append _ rr).trans hpp),
    (extractByte_append _ xx).trans hrr, hxx⟩

/-- The four loads of LDRECIPE, in the order of R71. -/
def recipeLoads (ii pp rr xx : Byte) : List Instr := [.ldinit ii, .ldpoly pp, .ldrefl rr, .ldxor xx]

/-- Two loads of LDRECIPE write the same in either order: no two write one field differently. -/
theorem loadField_comm {ii pp rr xx : Byte} {i j : Instr} (hi : i ∈ recipeLoads ii pp rr xx)
    (hj : j ∈ recipeLoads ii pp rr xx) (s : State) :
    loadField (loadField s i) j = loadField (loadField s j) i := by
  simp only [recipeLoads, List.mem_cons, List.not_mem_nil, or_false] at hi hj
  rcases hi with rfl | rfl | rfl | rfl <;> rcases hj with rfl | rfl | rfl | rfl <;> rfl

/-- Words in the order of a permuted command list are the encoding of a permuted command list. -/
theorem exists_perm_of_perm_map_encode {ws : List CmdWord} {is : List Instr}
    (h : ws.Perm (is.map encode)) : ∃ js : List Instr, ws = js.map encode ∧ js.Perm is := by
  have hcomp : Relation.Comp (· = List.map encode ·) List.Perm ws is := by
    rwa [List.eq_map_comp_perm]
  exact hcomp

/-- The four loads of LDRECIPE in any order (R71). -/
theorem sendAll_recipeLoads {ii pp rr xx : Byte} {ws : List CmdWord}
    (h : ws.Perm ((recipeLoads ii pp rr xx).map encode)) (s : State) :
    ∃ rs, sendAll ws s = .next (((recipeLoads ii pp rr xx).foldl loadField s).answered rs) := by
  obtain ⟨js, rfl, hperm⟩ := exists_perm_of_perm_map_encode h
  have hloads : ∀ i ∈ recipeLoads ii pp rr xx, Loads i :=
    List.forall_iff_forall_mem.mp ⟨.ldinit ii, .ldpoly pp, .ldrefl rr, .ldxor xx⟩
  have hfold := hperm.symm.foldl_eq' (f := loadField)
    (fun _ hi _ hj z => loadField_comm hi hj z) s
  rw [hfold]
  exact sendAll_loads js (fun j hj => hloads j (hperm.subset hj)) s

/-- NORM on a raw recipe whose mode was loaded by LDREFL (R81, R84). -/
theorem send_norm_raw {s : State} {rr : Byte} (hraw : s.phase = .raw) (hmode : s.mode = rawReflect rr) :
    ∃ r, send 0x1000#16 s = .next
      (((s.setPoly (if rr = 0x00#8 then s.poly else rev8 s.poly)).setPhase .ready).answered [r]) := by
  have hpoly : normalizedPoly s = if rr = 0x00#8 then s.poly else rev8 s.poly := by
    rw [rawReflect] at hmode
    split at hmode
    case isTrue hrr => rw [normalizedPoly_normal hmode, if_pos hrr]
    case isFalse hrr => rw [normalizedPoly_reflected hmode, if_neg hrr]
  have hsend : send 0x1000#16 s = exec (.norm 0x00#8) s := send_of_ok (decode_encode (.norm 0x00#8)) s
  rw [hsend, exec_of_effect (.norm hraw), hpoly]
  exact ⟨_, rfl⟩

/-- The four loads of LDRECIPE in any order, then NORM (R71). -/
theorem sendAll_recipeLoads_norm {ii pp rr xx : Byte} {ws : List CmdWord}
    (h : ws.Perm ((recipeLoads ii pp rr xx).map encode)) (s : State) :
    ∃ rs, sendAll (ws ++ [0x1000#16]) s = .next { s with
      crc := ii, poly := if rr = 0x00#8 then pp else rev8 pp, xorout := xx,
      mode := if rr = 0x00#8 then .normal else .reflected, phase := .ready,
      responses := s.responses ++ rs } := by
  obtain ⟨rs, hrs⟩ := sendAll_recipeLoads h s
  obtain ⟨r, hr⟩ := send_norm_raw (rr := rr)
    (s := ((recipeLoads ii pp rr xx).foldl loadField s).answered rs) rfl rfl
  refine ⟨rs ++ [r], ?_⟩
  rw [sendAll_append hrs, sendAll_cons hr, sendAll_nil, ← List.append_assoc]
  rfl

/-- Settles O51: the four loads commute, and NORM follows on the raw recipe they leave. -/
theorem ldRecipeLoadsAndNormalizes : Obligations.LdRecipeLoadsAndNormalizes := by
  refine ⟨fun ii pp rr xx => ⟨?_, fun _ s h => sendAll_recipeLoads_norm h s⟩, by decide, fun s v => ?_⟩
  · obtain ⟨hii, hpp, hrr, hxx⟩ := recipe_fields ii pp rr xx
    rw [ldRecipe, hii, hpp, hrr, hxx]
    rfl
  · exact ⟨sendAll_pair_raw (.inl (opField_cmdWord 0x02#8 v)) _ s,
      sendAll_pair_raw (.inr (opField_cmdWord 0x03#8 v)) _ s⟩

/-! ## LDVARIANT -/

/-- LDMODE's two legal operands as MODE (R86). -/
theorem normalizedFlag_of_legal {m : Byte} (h : m = 0x80#8 ∨ m = 0x01#8) :
    normalizedFlag m = some (if m = 0x80#8 then .normal else .reflected) := by
  rcases h with rfl | rfl <;> rfl

/-- The words of LDVARIANT, from any state (R73). -/
theorem sendAll_ldVariant {m : Byte} (hm : m = 0x80#8 ∨ m = 0x01#8) (init pn x : Byte) (s : State) :
    ∃ rs, sendAll (ldVariant init pn m x) s = .next { s with
      crc := init, poly := pn, xorout := x, mode := if m = 0x80#8 then .normal else .reflected,
      phase := .ready, responses := s.responses ++ rs } := by
  have hflag := normalizedFlag_of_legal hm
  obtain ⟨rs, hrs⟩ := sendAll_loads [.ldinit init, .ldpoly pn, .ldmode m, .ldxor x]
    (List.forall_iff_forall_mem.mp ⟨.ldinit init, .ldpoly pn, .ldmode hflag, .ldxor x⟩) s
  refine ⟨rs, hrs.trans ?_⟩
  simp only [List.foldl_cons, List.foldl_nil, loadField, hflag]
  rfl

/-- Settles O53: three loads and LDMODE, which comes after LDPOLY. -/
theorem ldVariantLoadsWithoutNormalizing : Obligations.LdVariantLoadsWithoutNormalizing :=
  ⟨fun init pn m x => ⟨rfl, fun s hm => sendAll_ldVariant hm init pn x s⟩, by decide,
    fun s pn _ => sendAll_pair_raw (.inl (opField_cmdWord 0x02#8 pn)) _ s⟩

/-! ## The other names -/

/-- Settles O54: each name is a command, and its word that command's. -/
theorem aliasesAreRenamings : Obligations.AliasesAreRenamings := ⟨rfl, rfl, fun _ => rfl⟩

end Sys2Proof.Machine
end

section
/-!
The statements of 40_normalize.md: bit reversal, the loads of the recipe, NORM, and that NORM never reverses POLY
twice.
-/

namespace Sys2Proof.Machine

/-! ## Bit reversal -/

/-- Bit `i` of the reversal is bit `7 - i` (R80). -/
theorem getLsbD_rev8 (v : Byte) {i : Nat} (hi : i < 8) : (rev8 v).getLsbD i = v.getLsbD (7 - i) := by
  simp only [rev8, BitVec.getLsbD_append, BitVec.getLsbD_ofBool]
  interval_cases i <;> rfl

/-- Reversing twice gives the byte back (R80). -/
@[simp] theorem rev8_rev8 (v : Byte) : rev8 (rev8 v) = v := by
  apply BitVec.eq_of_getLsbD_eq
  intro i hi
  rw [getLsbD_rev8 _ hi, getLsbD_rev8 _ (by omega), Nat.sub_sub_self (by omega)]

/-- Settles O39: the bit order gives the involution, and a check of all 256 bytes the fixed points. -/
theorem bitReversal : Obligations.BitReversal :=
  ⟨fun v _ hi => getLsbD_rev8 v hi, rev8_rev8, by decide, by decide⟩

/-! ## The loads of the recipe -/

/-- LDREFL's operand 0x00 (R84). -/
theorem rawReflect_zero : rawReflect 0x00#8 = .normal := if_pos rfl

/-- LDREFL's other operands (R84). -/
theorem rawReflect_of_ne_zero {imm : Byte} (h : imm ≠ 0x00#8) : rawReflect imm = .reflected := if_neg h

/-- Settles O18, by the effect of LDINIT. -/
theorem ldinitResult : Obligations.LdinitResult :=
  fun imm _ => ⟨decode_encode (.ldinit imm), exec_of_effect (.ldinit imm)⟩

/-- Settles O19, by the effect of LDPOLY. -/
theorem ldpolyResult : Obligations.LdpolyResult :=
  fun imm _ => ⟨decode_encode (.ldpoly imm), exec_of_effect (.ldpoly imm)⟩

/-- Settles O20, by the effect of LDREFL and the two readings of its operand. -/
theorem ldreflResult : Obligations.LdreflResult := by
  intro imm s
  have heffect := exec_of_effect (.ldrefl (s := s) imm)
  refine ⟨decode_encode (.ldrefl imm), fun h => ?_, fun h => ?_⟩
  · subst h
    rw [heffect, rawReflect_zero]
    rfl
  · rw [heffect, rawReflect_of_ne_zero h]
    rfl

/-- Settles O21, by the effect of LDXOR. -/
theorem ldxorResult : Obligations.LdxorResult :=
  fun imm _ => ⟨decode_encode (.ldxor imm), exec_of_effect (.ldxor imm)⟩

/-- Settles O22: the two operands with a meaning, and the rejection of every other. -/
theorem ldmodeResult : Obligations.LdmodeResult := by
  intro imm s
  refine ⟨decode_encode (.ldmode imm), ?_, ?_, fun h80 h01 => ?_⟩
  · rintro rfl
    exact exec_of_effect (.ldmode (m := .normal) rfl)
  · rintro rfl
    exact exec_of_effect (.ldmode (m := .reflected) rfl)
  · exact exec_badOperand (by simp [Instr.wellFormed, h80, h01]) s

/-! ## NORM -/

/-- Settles O23: NORM's effect in RAW by MODE, and its two rejections. -/
theorem normResult : Obligations.NormResult := by
  refine ⟨decode_encode (.norm 0x00#8), fun s => ⟨fun hraw hmode => ?_, fun hraw hmode => ?_,
    fun hready => exec_of_effect (.alreadyReady hready),
    fun imm h => exec_badOperand (i := .norm imm) (beq_false_of_ne h) s⟩⟩
  · rw [exec_of_effect (.norm hraw), normalizedPoly_reflected hmode]
    rfl
  · rw [exec_of_effect (.norm hraw), normalizedPoly_normal hmode]
    rfl

/-- NORM on a READY recipe is rejected (R87). -/
theorem send_norm_ready {s : State} (h : s.phase = .ready) :
    send 0x1000#16 s = .next (raiseCmdError .alreadyReady s) :=
  (send_of_ok (decode_encode (.norm 0x00#8)) s).trans (exec_of_effect (.alreadyReady h))

/-- On a READY recipe only LDPOLY writes POLY (R29, R87). -/
theorem Effect.poly_eq_of_ready {i : Instr} {s t : State} (h : Effect s i t) (hready : s.phase = .ready)
    (hldpoly : i.opcode ≠ 0x02#8) : t.poly = s.poly := by
  cases h with
  | badOperand | notReady | alreadyReady => exact raiseCmdError_poly _ _
  | ldpoly => exact absurd rfl hldpoly
  | norm hraw => cases hraw.symm.trans hready
  | nop | ldinit | ldrefl | ldxor | ldmode | upd | fin | rd | clrerr => rfl

/-- A READY recipe stays READY unless LDPOLY or LDREFL is performed (R25). -/
theorem Effect.phase_ready {i : Instr} {s t : State} (h : Effect s i t) (hready : s.phase = .ready)
    (hldpoly : i.opcode ≠ 0x02#8) (hldrefl : i.opcode ≠ 0x03#8) : t.phase = .ready := by
  simp [h.phase_eq, hready, hldpoly, hldrefl]

/-- On a READY recipe a word other than LDPOLY and LDREFL keeps POLY and PHASE (R87). -/
theorem send_keeps_ready_poly {w : CmdWord} (hldpoly : opField w ≠ 0x02#8) (hldrefl : opField w ≠ 0x03#8)
    {s : State} (hready : s.phase = .ready) :
    ∃ t, send w s = .next t ∧ t.poly = s.poly ∧ t.phase = .ready := by
  rcases send_cases w s with ⟨e, -, h⟩ | ⟨i, t, rfl, h, ht⟩
  · exact ⟨_, h, raiseCmdError_poly _ s, (raiseCmdError_phase _ s).trans hready⟩
  · rw [opField_encode] at hldpoly hldrefl
    exact ⟨t, h, ht.poly_eq_of_ready hready hldpoly, ht.phase_ready hready hldpoly hldrefl⟩

/-- A rejected command keeps the recipe (R143). -/
theorem sameRecipe_raiseCmdError (e : CmdError) (s : State) : SameRecipe s (raiseCmdError e s) :=
  ⟨raiseCmdError_crc e s, raiseCmdError_poly e s, raiseCmdError_xorout e s, raiseCmdError_mode e s,
    raiseCmdError_phase e s⟩

theorem sameRecipe_refl (s : State) : SameRecipe s s := ⟨rfl, rfl, rfl, rfl, rfl⟩

theorem sameRecipe_trans {s t u : State} (hst : SameRecipe s t) (htu : SameRecipe t u) :
    SameRecipe s u := by
  obtain ⟨hcrc, hpoly, hxorout, hmode, hphase⟩ := hst
  obtain ⟨hcrc', hpoly', hxorout', hmode', hphase'⟩ := htu
  exact ⟨hcrc'.trans hcrc, hpoly'.trans hpoly, hxorout'.trans hxorout, hmode'.trans hmode,
    hphase'.trans hphase⟩

/-- Any number of NORMs on a READY recipe keep the recipe, READY included (R87). -/
theorem sendAll_replicate_norm_ready (k : Nat) {s : State} (hready : s.phase = .ready) :
    ∃ t, sendAll (List.replicate k 0x1000#16) s = .next t ∧ SameRecipe s t ∧ t.phase = .ready := by
  refine sendAll_keeps (P := fun t => SameRecipe s t ∧ t.phase = .ready) _ s
    ⟨sameRecipe_refl s, hready⟩ ?_
  rintro w hw t ⟨hsame, hphase⟩
  obtain rfl := List.eq_of_mem_replicate hw
  exact ⟨_, send_norm_ready hphase, sameRecipe_trans hsame (sameRecipe_raiseCmdError _ t),
    (raiseCmdError_phase _ t).trans hphase⟩

/-- LDPOLY, LDREFL 0x01 and NORM reverse the loaded polynomial, from any state (R81, R87). -/
theorem sendAll_ldpoly_ldrefl_norm (p : Byte) (s : State) :
    ∃ rs, sendAll [0x02#8 ++ p, 0x0301#16, 0x1000#16] s = .next { s with
      poly := rev8 p, mode := .reflected, phase := .ready, responses := s.responses ++ rs } := by
  have hloads : ∀ i ∈ [Instr.ldpoly p, .ldrefl 0x01#8], Loads i :=
    List.forall_iff_forall_mem.mp ⟨.ldpoly p, .ldrefl 0x01#8⟩
  obtain ⟨rs, hrs⟩ := sendAll_loads [.ldpoly p, .ldrefl 0x01#8] hloads s
  obtain ⟨r, hr⟩ := send_norm_raw (rr := 0x01#8)
    (s := ([Instr.ldpoly p, .ldrefl 0x01#8].foldl loadField s).answered rs) rfl rfl
  refine ⟨rs ++ [r], (sendAll_append hrs [0x1000#16]).trans ?_⟩
  rw [sendAll_cons hr, sendAll_nil, ← List.append_assoc]
  rfl

/-- Settles O49: a READY recipe keeps POLY through each word, every further NORM is rejected, and the three
words load 0x8C and reverse it. -/
theorem normalizeIsNotRepeated : Obligations.NormalizeIsNotRepeated := by
  refine ⟨fun ws s hready hws => ?_, fun k s hready => ?_, fun s => ?_, by decide +kernel⟩
  · refine sendAll_keeps (P := fun t => t.poly = s.poly ∧ t.phase = .ready) ws s ⟨rfl, hready⟩ ?_
    rintro w hw t ⟨hpoly, hphase⟩
    obtain ⟨hldpoly, hldrefl⟩ := hws w hw
    obtain ⟨u, hu, hupoly, huphase⟩ := send_keeps_ready_poly hldpoly hldrefl hphase
    exact ⟨u, hu, hupoly.trans hpoly, huphase⟩
  · obtain ⟨t, ht, hsame, hphase⟩ := sendAll_replicate_norm_ready k hready
    exact ⟨t, ht, hsame, send_norm_ready hphase⟩
  · have hrev : rev8 0x8C#8 = 0x31#8 := by decide
    obtain ⟨rs, hrs⟩ := sendAll_ldpoly_ldrefl_norm 0x8C#8 s
    exact ⟨_, hrs, hrev, rfl, rfl⟩

end Sys2Proof.Machine
end

section
/-!
The statements of 41_update.md: the update algorithm, UPD, bulk update, and a message sent in chunks.
-/

namespace Sys2Proof.Machine

/-! ## The update algorithm -/

/-- R9's left shift by one, on the number the byte stands for. -/
theorem shiftLeft_one_eq_ofNat (w : Byte) : w <<< 1 = BitVec.ofNat 8 (w.toNat * 2 % 256) := by
  apply BitVec.eq_of_toNat_eq
  rw [BitVec.toNat_shiftLeft, BitVec.toNat_ofNat, Nat.shiftLeft_eq]
  omega

/-- R9's right shift by one, on the number the byte stands for. -/
theorem ushiftRight_one_eq_ofNat (w : Byte) : w >>> 1 = BitVec.ofNat 8 (w.toNat / 2) := by
  apply BitVec.eq_of_toNat_eq
  have hlt := w.isLt
  rw [BitVec.toNat_ushiftRight, BitVec.toNat_ofNat, Nat.shiftRight_eq_div_pow]
  omega

/-- The repetition of R100 is iteration of one step. -/
theorem crcSteps_eq_iterate (n : Nat) (w poly : Byte) (mode : Mode) :
    crcSteps n w poly mode = (fun w => crcStep w poly mode)^[n] w := by
  induction n generalizing w with
  | zero => rfl
  | succ n ih => rw [crcSteps_succ, ih, Function.iterate_succ_apply]

/-- Settles O40, by each mode's shift on numbers and by eight steps as an iteration. -/
theorem updateAlgorithm : Obligations.UpdateAlgorithm := by
  refine ⟨fun w poly => ?_, fun w poly => ?_, fun crc poly mode b => crcSteps_eq_iterate 8 _ poly mode⟩
  · rw [crcStep_normal, shiftLeft_one_eq_ofNat]
  · rw [crcStep_reflected, ushiftRight_one_eq_ofNat]

/-! ## UPD -/

/-- Settles O24, by UPD's effect in each phase. -/
theorem updResult : Obligations.UpdResult :=
  fun imm _ => ⟨decode_encode (.upd imm), fun h => exec_of_effect (.upd imm h),
    fun h => exec_of_effect (.notReady imm h)⟩

/-- The word of an UPD on a READY recipe (R102). -/
theorem send_upd_ready {s : State} (h : s.phase = .ready) (b : Byte) :
    send (encode (.upd b)) s = .next (respondCrc (s.setCrc (crcByte s.crc s.poly s.mode b))) :=
  (send_of_ok (decode_encode (.upd b)) s).trans (exec_of_effect (.upd b h))

/-- The word of an UPD on a recipe that is not normalized (R102). -/
theorem send_upd_raw {s : State} (h : s.phase = .raw) (b : Byte) :
    send (encode (.upd b)) s = .next (raiseCmdError .notReady s) :=
  (send_of_ok (decode_encode (.upd b)) s).trans (exec_of_effect (.notReady b h))

/-! ## Bulk update -/

/-- A message split in two (R104). -/
theorem bulk_append (c p : Byte) (m : Mode) (as bs : List Byte) :
    bulk c p m (as ++ bs) = bulk (bulk c p m as) p m bs := by
  induction as generalizing c with
  | nil => rfl
  | cons a as ih => exact ih (crcByte c p m a)

/-- One byte more at the end of a message. -/
theorem bulk_concat (c p : Byte) (m : Mode) (bs : List Byte) (b : Byte) :
    bulk c p m (bs ++ [b]) = crcByte (bulk c p m bs) p m b :=
  bulk_append c p m bs [b]

/-- UPDN on a READY recipe writes the bulk result to CRC, and answers once for each byte (R103). The induction
is on the last byte, whose response carries the result. -/
theorem sendAll_updN_ready (bs : List Byte) {s : State} (h : s.phase = .ready) : ∃ rs,
    sendAll (updN bs) s = .next ((s.setCrc (bulk s.crc s.poly s.mode bs)).answered rs) ∧
    rs.length = bs.length ∧
    (bs ≠ [] → rs.getLast? = some (statusOf s ++ bulk s.crc s.poly s.mode bs)) := by
  induction bs using List.reverseRecOn with
  | nil => exact ⟨[], congrArg _ (State.answered_nil s).symm, rfl, fun hne => absurd rfl hne⟩
  | append_singleton bs b ih =>
    obtain ⟨rs, hrs, hlen, -⟩ := ih
    have hb := send_upd_ready (s := (s.setCrc (bulk s.crc s.poly s.mode bs)).answered rs) h b
    refine ⟨rs ++ [statusOf s ++ bulk s.crc s.poly s.mode (bs ++ [b])], ?_, by simp [hlen],
      fun _ => List.getLast?_concat⟩
    rw [updN, List.map_append, ← updN, sendAll_append hrs, List.map_singleton, sendAll_cons hb,
      sendAll_nil, bulk_concat, ← State.answered_answered]
    rfl

/-- UPDN on a recipe that is not normalized is rejected word by word, and keeps the recipe (R103). -/
theorem sendAll_updN_raw (bs : List Byte) {s : State} (h : s.phase = .raw) :
    ∃ t, sendAll (updN bs) s = .next t ∧ SameRecipe s t ∧ t.phase = .raw := by
  refine sendAll_keeps (P := fun t => SameRecipe s t ∧ t.phase = .raw) _ s ⟨sameRecipe_refl s, h⟩ ?_
  rintro w hw t ⟨hsame, hraw⟩
  obtain ⟨b, -, rfl⟩ := List.mem_map.mp hw
  exact ⟨_, send_upd_raw hraw b, sameRecipe_trans hsame (sameRecipe_raiseCmdError _ t),
    (raiseCmdError_phase _ t).trans hraw⟩

/-- Settles O45: the words of UPDN in each phase. -/
theorem bulkUpdate : Obligations.BulkUpdate := by
  refine ⟨fun _ _ _ => rfl, fun _ _ _ _ _ => rfl, rfl, fun bs s h => sendAll_updN_ready bs h,
    fun bs s h => ?_⟩
  obtain ⟨t, ht, hsame, hraw⟩ := sendAll_updN_raw bs h
  exact ⟨t, ht, hsame, fun b => exec_of_effect (.notReady b hraw)⟩

/-! ## A message in chunks -/

/-- The message bytes of a sequence are those of its first word and those of the rest. -/
theorem updBytes_cons (w : CmdWord) (ws : List CmdWord) :
    updBytes (w :: ws) = updBytes [w] ++ updBytes ws :=
  List.filterMap_append (l := [w])

/-- A word that is no command carries no message byte. -/
theorem updBytes_of_error {w : CmdWord} {e : DecodeError} (h : decode w = .error e) :
    updBytes [w] = [] := by
  simp [updBytes, updByte, h]

/-- An UPD carries its operand. -/
theorem updBytes_encode_upd (b : Byte) : updBytes [encode (.upd b)] = [b] := by
  simp [updBytes, updByte]

/-- Every other command carries no message byte. -/
theorem updBytes_encode_of_ne_upd {i : Instr} (h : i.opcode ≠ 0x20#8) : updBytes [encode i] = [] := by
  cases i with
  | upd => exact absurd rfl h
  | nop | ldinit | ldpoly | ldrefl | ldxor | ldmode | norm | fin | rd | clrerr =>
    simp [updBytes, updByte]

/-- `t` is `s` after the message bytes `bs`, on the same normalized recipe; XOROUT, the error record and the
port are free. -/
structure Consumed (s : State) (bs : List Byte) (t : State) : Prop where
  crc : t.crc = bulk s.crc s.poly s.mode bs
  poly : t.poly = s.poly
  mode : t.mode = s.mode
  phase : t.phase = .ready

theorem Consumed.refl {s : State} (h : s.phase = .ready) : Consumed s [] s := ⟨rfl, rfl, rfl, h⟩

/-- A rejected command consumes nothing (R143). -/
theorem consumed_raiseCmdError (e : CmdError) {s : State} (h : s.phase = .ready) :
    Consumed s [] (raiseCmdError e s) :=
  ⟨raiseCmdError_crc e s, raiseCmdError_poly e s, raiseCmdError_mode e s,
    (raiseCmdError_phase e s).trans h⟩

/-- Two chunks are one message. -/
theorem Consumed.trans {s t u : State} {as bs : List Byte} (hst : Consumed s as t)
    (htu : Consumed t bs u) : Consumed s (as ++ bs) u where
  crc := by rw [htu.crc, hst.crc, hst.poly, hst.mode, bulk_append]
  poly := htu.poly.trans hst.poly
  mode := htu.mode.trans hst.mode
  phase := htu.phase

/-- Of the commands R104 allows on a READY recipe, UPD consumes its byte and the others none. -/
theorem Effect.consumed {i : Instr} {s t : State} (h : Effect s i t) (hready : s.phase = .ready)
    (hkeeps : keepsMessage (encode i) = true) : Consumed s (updBytes [encode i]) t := by
  cases h with
  | @badOperand i hbad =>
    have hupd : i.opcode ≠ 0x20#8 := by
      cases i with
      | upd => cases hbad
      | nop | ldinit | ldpoly | ldrefl | ldxor | ldmode | norm | fin | rd | clrerr =>
        simp [Instr.opcode]
    exact updBytes_encode_of_ne_upd hupd ▸ consumed_raiseCmdError _ hready
  | alreadyReady =>
    rw [updBytes_encode_of_ne_upd (by decide)]
    exact consumed_raiseCmdError _ hready
  | upd imm =>
    rw [updBytes_encode_upd]
    exact ⟨rfl, rfl, rfl, hready⟩
  | nop | ldxor | rd | clrerr =>
    rw [updBytes_encode_of_ne_upd (by simp [Instr.opcode])]
    exact ⟨rfl, rfl, rfl, hready⟩
  | notReady _ hraw | norm hraw => cases hraw.symm.trans hready
  | ldinit | ldpoly | ldrefl | fin => simp [keepsMessage, Instr.wellFormed] at hkeeps
  | ldmode hm => simp [keepsMessage, wellFormed_ldmode, hm] at hkeeps

/-- One word of an interleaved message. -/
theorem send_consumed {w : CmdWord} {s : State} (hready : s.phase = .ready)
    (hkeeps : keepsMessage w = true) : ∃ t, send w s = .next t ∧ Consumed s (updBytes [w]) t := by
  rcases send_cases w s with ⟨e, hd, h⟩ | ⟨i, t, rfl, h, ht⟩
  · exact ⟨_, h, updBytes_of_error hd ▸ consumed_raiseCmdError _ hready⟩
  · exact ⟨t, h, ht.consumed hready hkeeps⟩

/-- An interleaved message consumes its UPD bytes in order (R104). -/
theorem sendAll_consumed (ws : List CmdWord) {s : State} (hready : s.phase = .ready)
    (hkeeps : ∀ w ∈ ws, keepsMessage w = true) :
    ∃ t, sendAll ws s = .next t ∧ Consumed s (updBytes ws) t := by
  induction ws generalizing s with
  | nil => exact ⟨s, rfl, .refl hready⟩
  | cons w ws ih =>
    obtain ⟨t, ht, hw⟩ := send_consumed hready (hkeeps w List.mem_cons_self)
    obtain ⟨u, hu, hws⟩ := ih hw.phase fun v hv => hkeeps v (List.mem_cons_of_mem w hv)
    exact ⟨u, (sendAll_cons ht).trans hu, updBytes_cons w ws ▸ hw.trans hws⟩

/-- Settles O46, by the message each word consumes and the chunks put together. -/
theorem incrementalEquivalence : Obligations.IncrementalEquivalence := by
  refine ⟨fun c p m as bs => (bulk_append c p m as bs).symm, fun ws s hready hkeeps => ?_⟩
  obtain ⟨t, ht, hcons⟩ := sendAll_consumed ws hready hkeeps
  exact ⟨t, ht, hcons.crc, hcons.poly, hcons.mode, hcons.phase⟩

end Sys2Proof.Machine
end

section
/-!
The statements of 42_finish.md: FIN, the parity of repeated FINs, and FIN on a fresh recipe.
-/

namespace Sys2Proof.Machine

/-! ## FIN -/

/-- Settles O25, by FIN's effect and the rejection of its reserved operand. -/
theorem finResult : Obligations.FinResult :=
  ⟨decode_encode (.fin 0x00#8), fun s => ⟨exec_of_effect .fin,
    fun imm h => exec_badOperand (i := .fin imm) (beq_false_of_ne h) s⟩⟩

/-- The word of an accepted FIN, in either phase (R120). -/
theorem send_fin (s : State) :
    send 0x3000#16 s = .next (respondCrc (s.setCrc (s.crc ^^^ s.xorout))) :=
  (send_of_ok (decode_encode (.fin 0x00#8)) s).trans (exec_of_effect .fin)

/-! ## Words that write CRC only by FIN -/

/-- LDINIT and an accepted UPD apart, only an accepted FIN writes CRC (R29, R121). -/
theorem Effect.crc_eq {i : Instr} {s t : State} (h : Effect s i t) (hldinit : i.opcode ≠ 0x01#8)
    (hupd : i.opcode = 0x20#8 → s.phase = .raw) :
    t.crc = if i = .fin 0x00#8 then s.crc ^^^ s.xorout else s.crc := by
  cases h with
  | @badOperand i hbad =>
    have hfin : i ≠ .fin 0x00#8 := by
      rintro rfl
      cases hbad
    rw [if_neg hfin, raiseCmdError_crc]
  | notReady | alreadyReady => exact raiseCmdError_crc _ _
  | ldinit => exact absurd rfl hldinit
  | upd imm hready => cases (hupd rfl).symm.trans hready
  | fin => exact (if_pos rfl).symm
  | nop | ldpoly | ldrefl | ldxor | ldmode | norm | rd | clrerr => rfl

/-- One word of a sequence with no LDINIT and no accepted UPD (R121). -/
theorem send_crc {w : CmdWord} {s : State} (hldinit : opField w ≠ 0x01#8)
    (hupd : opField w = 0x20#8 → s.phase = .raw) : ∃ t, send w s = .next t ∧
    t.crc = if w = 0x3000#16 then s.crc ^^^ s.xorout else s.crc := by
  rcases send_cases w s with ⟨e, hd, h⟩ | ⟨i, t, rfl, h, ht⟩
  · refine ⟨_, h, ?_⟩
    have hfin : w ≠ 0x3000#16 := ne_encode hd (.fin 0x00#8)
    rw [if_neg hfin, raiseCmdError_crc]
  · refine ⟨t, h, ?_⟩
    have hfin : (0x3000#16 : CmdWord) = encode (.fin 0x00#8) := rfl
    rw [opField_encode] at hldinit hupd
    rw [ht.crc_eq hldinit hupd, hfin]
    simp only [encode_inj]

/-- A word other than LDXOR keeps XOROUT (R24). -/
theorem send_xorout {w : CmdWord} {s t : State} (h : send w s = .next t) (hldxor : opField w ≠ 0x04#8) :
    t.xorout = s.xorout := by
  rcases send_cases w s with ⟨e, -, hsend⟩ | ⟨i, u, rfl, hsend, hu⟩
  · cases h.symm.trans hsend
    exact raiseCmdError_xorout _ s
  · cases h.symm.trans hsend
    rw [opField_encode] at hldxor
    exact hu.xorout_eq hldxor

/-- What holds of the empty prefix of a sequence, and of each prefix from the one before it, holds of the whole
sequence. -/
theorem sendAll_prefix_induction {P : List CmdWord → State → Prop} (ws : List CmdWord) {s : State}
    (hnil : P [] s)
    (hstep : ∀ pre w post, ws = pre ++ w :: post → ∀ u, sendAll pre s = .next u → P pre u →
      ∃ t, send w u = .next t ∧ P (pre ++ [w]) t) :
    ∃ t, sendAll ws s = .next t ∧ P ws t := by
  induction ws using List.reverseRecOn with
  | nil => exact ⟨s, rfl, hnil⟩
  | append_singleton ws w ih =>
    obtain ⟨u, hu, hPu⟩ := ih fun pre v post hws => hstep pre v (post ++ [w]) (by simp [hws])
    obtain ⟨t, ht, hPt⟩ := hstep ws w [] rfl u hu hPu
    exact ⟨t, by rw [sendAll_append hu, sendAll_cons ht, sendAll_nil], hPt⟩

/-! ## The parity of FINs -/

/-- CRC after `k` accepted FINs from `s` (R121). -/
def finCrc (k : Nat) (s : State) : Byte := if k % 2 = 1 then s.crc ^^^ s.xorout else s.crc

/-- One FIN more XORs XOROUT in once more. -/
theorem finCrc_succ (k : Nat) (s : State) : finCrc (k + 1) s = finCrc k s ^^^ s.xorout := by
  unfold finCrc
  rcases Nat.mod_two_eq_zero_or_one k with hk | hk
  · rw [if_pos (by omega), if_neg (by omega)]
  · rw [if_neg (by omega), if_pos hk, BitVec.xor_assoc, BitVec.xor_self, BitVec.xor_zero]

/-- FINs back to back write nothing but CRC (R121). -/
theorem sendAll_replicate_fin (k : Nat) (s : State) : ∃ rs,
    sendAll (List.replicate k 0x3000#16) s = .next ((s.setCrc (finCrc k s)).answered rs) := by
  induction k with
  | zero => exact ⟨[], congrArg _ (State.answered_nil s).symm⟩
  | succ k ih =>
    obtain ⟨rs, hrs⟩ := ih
    refine ⟨rs ++ [statusOf s ++ finCrc (k + 1) s], ?_⟩
    rw [List.replicate_succ', sendAll_append hrs, sendAll_cons (send_fin _), sendAll_nil,
      ← State.answered_answered, finCrc_succ]
    rfl

/-- The FINs of a sequence with no LDXOR and no other write of CRC are counted, whatever stands between them
(R121). -/
theorem sendAll_finCrc {ws : List CmdWord} {s : State}
    (hws : ∀ pre w post, ws = pre ++ w :: post → opField w ≠ 0x01#8 ∧ opField w ≠ 0x04#8 ∧
      (opField w = 0x20#8 → ∀ u, sendAll pre s = .next u → u.phase = .raw)) :
    ∃ t, sendAll ws s = .next t ∧ t.xorout = s.xorout ∧ t.crc = finCrc (ws.count 0x3000#16) s := by
  refine sendAll_prefix_induction (P := fun pre u => u.xorout = s.xorout ∧
    u.crc = finCrc (pre.count 0x3000#16) s) ws ⟨rfl, rfl⟩ ?_
  rintro pre w post hsplit u hu ⟨hxorout, hcrc⟩
  obtain ⟨hldinit, hldxor, hupd⟩ := hws pre w post hsplit
  obtain ⟨t, ht, htcrc⟩ := send_crc hldinit fun hop => hupd hop u hu
  refine ⟨t, ht, (send_xorout ht hldxor).trans hxorout, ?_⟩
  rw [htcrc, hcrc, hxorout, List.count_append, List.count_singleton]
  by_cases hfin : w = 0x3000#16
  · simp [hfin, finCrc_succ]
  · simp [hfin]

/-- Settles O47: FINs counted in a sequence and back to back; CRC after one FIN and after two is the same
exactly when XOROUT is neutral. -/
theorem finParity : Obligations.FinParity := by
  refine ⟨fun ws s => sendAll_finCrc, sendAll_replicate_fin, fun s => ?_⟩
  obtain ⟨rs, hrs⟩ := sendAll_replicate_fin 1 s
  obtain ⟨qs, hqs⟩ := sendAll_replicate_fin 2 s
  have hneutral : finCrc 2 s = finCrc 1 s ↔ s.xorout = 0x00#8 := by
    rw [finCrc_succ]
    exact xor_left_eq_self_iff
  rw [← hneutral]
  refine ⟨fun h => (h _ _ hrs hqs :), fun h t u ht hu => ?_⟩
  cases ht.symm.trans hrs
  cases hu.symm.trans hqs
  exact h

/-! ## FIN on a fresh recipe -/

/-- Settles O48: the seed stays in CRC through the words between, and FIN XORs XOROUT into it. -/
theorem finOnAFreshRecipe : Obligations.FinOnAFreshRecipe := by
  intro v ws s s0 hs0 hws
  have hseed : s0.crc = v := by
    cases hs0.symm.trans ((send_of_ok (decode_encode (.ldinit v)) s).trans (exec_of_effect (.ldinit v)))
    rfl
  have hkept : ∃ t, sendAll ws s0 = .next t ∧ t.crc = v := by
    refine sendAll_prefix_induction (P := fun _ u => u.crc = v) ws hseed ?_
    intro pre w post hsplit u hu hcrc
    obtain ⟨hldinit, hfin, hupd⟩ := hws pre w post hsplit
    obtain ⟨t, ht, htcrc⟩ := send_crc hldinit fun hop => hupd hop u hu
    have hword : w ≠ 0x3000#16 := fun hw => hfin (hw ▸ rfl)
    exact ⟨t, ht, by rw [htcrc, if_neg hword, hcrc]⟩
  obtain ⟨t, ht, hcrc⟩ := hkept
  exact ⟨t, _, ht, send_fin t, congrArg (· ^^^ t.xorout) hcrc⟩

end Sys2Proof.Machine
end

section
/-!
The statements of 43_control.md: NOP, RD and CLRERR.
-/

namespace Sys2Proof.Machine

/-- Settles O17, by NOP's effect and the rejection of its reserved operand. -/
theorem nopResult : Obligations.NopResult :=
  ⟨decode_encode (.nop 0x00#8), fun s => ⟨exec_of_effect .nop,
    fun imm h => exec_badOperand (i := .nop imm) (beq_false_of_ne h) s⟩⟩

/-- Settles O26, by RD's effect on each of the five selectors and the rejection of a reserved one. -/
theorem rdResult : Obligations.RdResult := by
  have hread (s : State) {imm d : Byte} (h : selectedValue imm s = some d) :
      exec (.rd imm) s = .next (respond d s) := exec_of_effect (.rd h)
  refine ⟨fun imm => decode_encode (.rd imm), fun s =>
    ⟨hread s rfl, hread s rfl, hread s rfl, hread s rfl, hread s rfl, fun imm h => ?_⟩⟩
  exact exec_badOperand (i := .rd imm) (decide_eq_false (Nat.not_le.mpr h)) s

/-- Settles O27, by CLRERR's effect and the rejection of its reserved operand. -/
theorem clrerrResult : Obligations.ClrerrResult :=
  ⟨decode_encode (.clrerr 0x00#8), fun s => ⟨exec_of_effect .clrerr,
    fun imm h => exec_badOperand (i := .clrerr imm) (beq_false_of_ne h) s⟩⟩

end Sys2Proof.Machine
end

section
/-!
The statements of 60_exceptions.md: what a rejection does, which words are rejected and with which error, and what
keeps and clears the error record.
-/

namespace Sys2Proof.Machine

/-! ## The rejection -/

/-- A rejected command answers with the CRC it was given (R142). -/
theorem raiseCmdError_responses_crc (e : CmdError) (s : State) :
    (raiseCmdError e s).responses = s.responses ++ [statusOf (raiseCmdError e s) ++ s.crc] := by
  rw [raiseCmdError_responses, raiseCmdError_crc]

/-- Settles O12: the two cases of the record, then bit 2 of STATUS and the response on the state after it. -/
theorem rejectionRecordsTheFirstError : Obligations.RejectionRecordsTheFirstError := by
  intro e s
  obtain ⟨-, -, hbit, -⟩ := statusOf_fields (raiseCmdError e s)
  refine ⟨fun herr => ?_, fun herr => ?_, hbit.trans (raiseCmdError_err e s),
    raiseCmdError_responses_crc e s⟩
  · rw [raiseCmdError, recordError_first e s herr]
    rfl
  · rw [raiseCmdError, recordError_again e s herr]
    rfl

/-! ## Which words are rejected -/

/-- An illegal opcode is the first error of R144. -/
theorem rejection_of_error {w : CmdWord} {e : DecodeError} (h : decode w = .error e) (s : State) :
    rejection w s = some .illegalOpcode := by
  simp only [rejection, h]

/-- A reserved operand is the second error of R144, in either phase. -/
theorem rejection_of_badOperand {i : Instr} (h : i.wellFormed = false) (s : State) :
    rejection (encode i) s = some .badOperand := by
  simp [rejection, h]

/-- UPD on a recipe that is not normalized is a phase error (R144). -/
theorem rejection_upd_raw (imm : Byte) {s : State} (h : s.phase = .raw) :
    rejection (encode (.upd imm)) s = some .notReady := by
  simp [rejection, Instr.wellFormed, h]

/-- NORM with its legal operand on a READY recipe is a phase error (R144). -/
theorem rejection_norm_ready {s : State} (h : s.phase = .ready) :
    rejection (encode (.norm 0x00#8)) s = some .alreadyReady := by
  simp [rejection, Instr.wellFormed, h]

/-- A command with a legal operand that meets neither phase error is accepted (R144). -/
theorem rejection_eq_none {i : Instr} {s : State} (hw : i.wellFormed = true)
    (hupd : ¬ ((∃ b, i = .upd b) ∧ s.phase = .raw)) (hnorm : ¬ ((∃ b, i = .norm b) ∧ s.phase = .ready)) :
    rejection (encode i) s = none := by
  simp only [rejection, decode_encode, hw, Bool.not_true, Bool.false_eq_true, if_false]
  split
  · exact absurd ⟨⟨_, rfl⟩, ‹_›⟩ hupd
  · exact absurd ⟨⟨_, rfl⟩, ‹_›⟩ hnorm
  · rfl

/-! ## The error record after a word -/

/-- The error record after a command: the rejection that R144 names, or, where it names none, the record as it
was, cleared by CLRERR (R142, R147). -/
theorem Effect.errorRecord {i : Instr} {s t : State} (h : Effect s i t) :
    (∃ e, rejection (encode i) s = some e ∧ t = raiseCmdError e s) ∨
    (rejection (encode i) s = none ∧
      if i = .clrerr 0x00#8 then t.err = false ∧ t.errcode = 0#3 else SameErrorRecord s t) := by
  cases h with
  | badOperand hw => exact .inl ⟨_, rejection_of_badOperand hw s, rfl⟩
  | notReady imm hraw => exact .inl ⟨_, rejection_upd_raw imm hraw, rfl⟩
  | alreadyReady hready => exact .inl ⟨_, rejection_norm_ready hready, rfl⟩
  | clrerr => exact .inr ⟨rejection_eq_none rfl (by simp) (by simp), rfl, rfl⟩
  | ldmode hm =>
    have hw := (wellFormed_ldmode _).trans (Option.isSome_of_eq_some hm)
    exact .inr ⟨rejection_eq_none hw (by simp) (by simp), rfl, rfl⟩
  | rd hd =>
    have hw := (wellFormed_rd _ s).trans (Option.isSome_of_eq_some hd)
    exact .inr ⟨rejection_eq_none hw (by simp) (by simp), rfl, rfl⟩
  | norm hraw => exact .inr ⟨rejection_eq_none rfl (by simp) (by simp [hraw]), rfl, rfl⟩
  | upd imm hready => exact .inr ⟨rejection_eq_none rfl (by simp [hready]) (by simp), rfl, rfl⟩
  | nop | ldinit | ldpoly | ldrefl | ldxor | fin =>
    exact .inr ⟨rejection_eq_none rfl (by simp) (by simp), rfl, rfl⟩

/-- A word that R144 rejects is answered by that rejection. -/
theorem send_of_rejection {w : CmdWord} {s : State} {e : CmdError} (h : rejection w s = some e) :
    send w s = .next (raiseCmdError e s) := by
  rcases send_cases w s with ⟨d, hd, hsend⟩ | ⟨i, t, rfl, hsend, ht⟩
  · cases (rejection_of_error hd s).symm.trans h
    exact hsend
  · rcases ht.errorRecord with ⟨e', he', rfl⟩ | ⟨hnone, -⟩
    · cases he'.symm.trans h
      exact hsend
    · cases hnone.symm.trans h

/-- A word that R144 does not reject keeps the error record, or clears it if it is CLRERR (R147). -/
theorem send_of_accepted {w : CmdWord} {s : State} (h : rejection w s = none) : ∃ t, send w s = .next t ∧
    if w = 0x5000#16 then t.err = false ∧ t.errcode = 0#3 else SameErrorRecord s t := by
  rcases send_cases w s with ⟨d, hd, -⟩ | ⟨i, t, rfl, hsend, ht⟩
  · cases (rejection_of_error hd s).symm.trans h
  · rcases ht.errorRecord with ⟨e, he, -⟩ | ⟨-, hrecord⟩
    · cases he.symm.trans h
    · have hclrerr : (0x5000#16 : CmdWord) = encode (.clrerr 0x00#8) := rfl
      refine ⟨t, hsend, ?_⟩
      simpa only [hclrerr, encode_inj] using hrecord

/-- Settles O13, by the frame, the response and the record of the rejection. -/
theorem rejectionIsPrecise : Obligations.RejectionIsPrecise :=
  fun _ s e h => ⟨_, send_of_rejection h, sameRecipe_raiseCmdError e s, raiseCmdError_pending e s,
    raiseCmdError_responses_crc e s, raiseCmdError_err e s, raiseCmdError_errcode e s⟩

/-- Settles O14: each condition of R144 names its rejection, and a word that meets none is accepted. -/
theorem errorConditionsAndPriority : Obligations.ErrorConditionsAndPriority := by
  refine ⟨⟨rfl, rfl, rfl, rfl⟩, fun w s => ⟨fun e hd => send_of_error hd s, fun i hd => ?_⟩⟩
  obtain rfl := encode_of_decode hd
  refine ⟨fun hw => send_of_rejection (rejection_of_badOperand hw s), fun hw => ⟨?_, ?_, ?_⟩⟩
  · rintro ⟨b, rfl⟩ hraw
    exact send_of_rejection (rejection_upd_raw b hraw)
  · rintro ⟨b, rfl⟩ hready
    obtain rfl : b = 0x00#8 := eq_of_beq hw
    exact send_of_rejection (rejection_norm_ready hready)
  · intro hupd hnorm
    obtain ⟨t, ht, hrecord⟩ := send_of_accepted (rejection_eq_none hw hupd hnorm)
    refine ⟨t, ht, fun hi => ?_, ?_⟩
    · have hword : encode i ≠ 0x5000#16 := fun h => hi 0x00#8 (encode_inj.mp h)
      rwa [if_neg hword] at hrecord
    · rintro ⟨b, rfl⟩
      obtain rfl : b = 0x00#8 := eq_of_beq hw
      have hword : encode (.clrerr 0x00#8) = 0x5000#16 := rfl
      rwa [if_pos hword] at hrecord

/-! ## The record is sticky and blocks nothing -/

/-- A recorded error stays as it is through a word other than CLRERR, accepted or rejected (R147). -/
theorem send_keeps_recorded_error {w : CmdWord} (hw : w ≠ 0x5000#16) {s : State} (herr : s.err = true) :
    ∃ t, send w s = .next t ∧ SameErrorRecord s t := by
  cases hrej : rejection w s with
  | some e =>
    refine ⟨_, send_of_rejection hrej, (raiseCmdError_err e s).trans herr.symm, ?_⟩
    rw [raiseCmdError_errcode, if_pos herr]
  | none =>
    obtain ⟨t, ht, hrecord⟩ := send_of_accepted hrej
    rw [if_neg hw] at hrecord
    exact ⟨t, ht, hrecord⟩

/-- The error record is no part of the recipe. -/
theorem sameRecipe_setErrorRecord (s : State) (e : Bool) (c : BitVec 3) :
    SameRecipe s (s.setErrorRecord e c) := ⟨rfl, rfl, rfl, rfl, rfl⟩

/-- Rejections leave equal recipes equal (R143). -/
theorem sameRecipe_raiseCmdError_raiseCmdError {s u : State} (h : SameRecipe s u) (e : CmdError) :
    SameRecipe (raiseCmdError e s) (raiseCmdError e u) := by
  simpa only [SameRecipe, raiseCmdError_crc, raiseCmdError_poly, raiseCmdError_xorout, raiseCmdError_mode,
    raiseCmdError_phase] using h

/-- What a command does to the recipe does not depend on the error record; the response of RD does (R147). -/
theorem Effect.setErrorRecord {i : Instr} {s t : State} (h : Effect s i t) (e : Bool) (c : BitVec 3) :
    ∃ u, Effect (s.setErrorRecord e c) i u ∧ SameRecipe t u := by
  have hsame := sameRecipe_setErrorRecord s e c
  cases h with
  | badOperand h => exact ⟨_, .badOperand h, sameRecipe_raiseCmdError_raiseCmdError hsame _⟩
  | notReady imm h => exact ⟨_, .notReady imm h, sameRecipe_raiseCmdError_raiseCmdError hsame _⟩
  | alreadyReady h => exact ⟨_, .alreadyReady h, sameRecipe_raiseCmdError_raiseCmdError hsame _⟩
  | @rd imm d h =>
    have hsome : (selectedValue imm (s.setErrorRecord e c)).isSome :=
      (wellFormed_rd imm _).symm.trans ((wellFormed_rd imm s).trans (Option.isSome_of_eq_some h))
    obtain ⟨d', hd'⟩ := Option.isSome_iff_exists.mp hsome
    exact ⟨_, .rd hd', hsame⟩
  | nop => exact ⟨_, .nop, hsame⟩
  | clrerr => exact ⟨_, .clrerr, hsame⟩
  | ldinit imm => exact ⟨_, .ldinit imm, rfl, rfl, rfl, rfl, rfl⟩
  | ldpoly imm => exact ⟨_, .ldpoly imm, rfl, rfl, rfl, rfl, rfl⟩
  | ldrefl imm => exact ⟨_, .ldrefl imm, rfl, rfl, rfl, rfl, rfl⟩
  | ldxor imm => exact ⟨_, .ldxor imm, rfl, rfl, rfl, rfl, rfl⟩
  | ldmode h => exact ⟨_, .ldmode h, rfl, rfl, rfl, rfl, rfl⟩
  | norm h => exact ⟨_, .norm h, rfl, rfl, rfl, rfl, rfl⟩
  | upd imm h => exact ⟨_, .upd imm h, rfl, rfl, rfl, rfl, rfl⟩
  | fin => exact ⟨_, .fin, rfl, rfl, rfl, rfl, rfl⟩

/-- What a word does to the recipe does not depend on the error record (R147). -/
theorem send_setErrorRecord (w : CmdWord) (s : State) (e : Bool) (c : BitVec 3) : ∃ t u,
    send w s = .next t ∧ send w (s.setErrorRecord e c) = .next u ∧ SameRecipe t u := by
  rcases send_cases w s with ⟨d, hd, h⟩ | ⟨i, t, rfl, h, ht⟩
  · exact ⟨_, _, h, send_of_error hd _,
      sameRecipe_raiseCmdError_raiseCmdError (sameRecipe_setErrorRecord s e c) _⟩
  · obtain ⟨u, hu, hsame⟩ := ht.setErrorRecord e c
    exact ⟨t, u, h, (send_of_ok (decode_encode i) _).trans (exec_of_effect hu), hsame⟩

/-- Settles O33: a recorded error is kept through each word of a sequence, and no effect on the recipe reads it. -/
theorem errorRecordIsStickyAndBlocksNothing : Obligations.ErrorRecordIsStickyAndBlocksNothing := by
  refine ⟨fun ws s herr hws => ?_, fun w s c => ?_, fun s => ?_, fun s f rest h => ?_⟩
  · refine sendAll_keeps (P := fun t => t.err = true ∧ t.errcode = s.errcode) ws s ⟨herr, rfl⟩ ?_
    rintro w hw t ⟨hterr, htcode⟩
    obtain ⟨u, hu, hsameErr, hsameCode⟩ := send_keeps_recorded_error (hws w hw) hterr
    exact ⟨u, hu, hsameErr.trans hterr, hsameCode.trans htcode⟩
  · exact send_setErrorRecord w { s with err := true, errcode := c } false 0#3
  · exact ⟨_, (send_of_ok (decode_encode (.clrerr 0x00#8)) s).trans (exec_of_effect .clrerr), rfl, rfl⟩
  · exact ⟨_, step_reset h, rfl, rfl⟩

end Sys2Proof.Machine
end

section
/-!
The statement of 70_reset_and_hazards.md: the next message on the same recipe.
-/

namespace Sys2Proof.Machine

/-- A message and its FIN on a READY recipe write the message's result to CRC, and nothing else but answers
(R103, R120). -/
theorem sendAll_updN_fin (msg : List Byte) {s : State} (h : s.phase = .ready) : ∃ rs,
    sendAll (updN msg ++ [0x3000#16]) s =
      .next ((s.setCrc (bulk s.crc s.poly s.mode msg ^^^ s.xorout)).answered rs) := by
  obtain ⟨rs, hrs, -, -⟩ := sendAll_updN_ready msg h
  refine ⟨rs ++ [statusOf s ++ (bulk s.crc s.poly s.mode msg ^^^ s.xorout)], ?_⟩
  rw [sendAll_append hrs, sendAll_cons (send_fin _), sendAll_nil, ← State.answered_answered]
  rfl

/-- RESEED is LDINIT: it loads the seed (R74, R82). -/
theorem send_reseed (v : Byte) (s : State) :
    send (encode (reseedAlias v)) s = .next (respondCrc (s.setCrc v)) :=
  (send_of_ok (decode_encode (.ldinit v)) s).trans (exec_of_effect (.ldinit v))

/-- Settles O58: a message and its FIN leave a READY recipe, so the second message after RESEED is another use of
the same rule, on the state whose CRC is the seed. -/
theorem reseedStartsTheNextMessage : Obligations.ReseedStartsTheNextMessage := by
  intro msg next v s hready
  obtain ⟨rs, hfirst⟩ := sendAll_updN_fin msg hready
  let t := (s.setCrc (bulk s.crc s.poly s.mode msg ^^^ s.xorout)).answered rs
  obtain ⟨qs, hsecond⟩ := sendAll_updN_fin next (s := respondCrc (t.setCrc v)) hready
  exact ⟨t, _, hfirst, rfl, rfl, rfl, rfl, hready, (sendAll_cons (send_reseed v t)).trans hsecond, rfl⟩

end Sys2Proof.Machine
end

section
/-!
The statements of 00_scope.md and of 30_encoding.md on words: decode and encode, what a step does with the oldest
event of the port, and that it always answers.
-/

namespace Sys2Proof.Machine

/-! ## Decode and encode -/

/-- Settles O9: the decoder reads back every command, and a word it reads as a command is that command's. -/
theorem decodeAndEncodeAgree : Obligations.DecodeAndEncodeAgree :=
  fun _ i => ⟨encode_of_decode, fun h => h ▸ decode_encode i⟩

/-- Settles O10: eleven words are encodings of commands, and two have an opcode outside the opcode map. -/
theorem specWordsDecodeAsTheSpecSays : Obligations.SpecWordsDecodeAsTheSpecSays :=
  ⟨decode_encode (.nop 0x00#8), decode_encode (.ldinit 0xA5#8), decode_encode (.ldpoly 0x8C#8),
    decode_encode (.ldrefl 0x01#8), decode_encode (.ldxor 0x55#8), decode_encode (.ldmode 0x80#8),
    decode_encode (.norm 0x00#8), decode_encode (.upd 0x31#8), decode_encode (.fin 0x00#8),
    decode_encode (.rd 0x04#8), decode_encode (.clrerr 0x00#8),
    (decode_eq_error_iff 0x0600#16).mpr (by decide), (decode_eq_error_iff 0xFFFF#16).mpr (by decide)⟩

/-! ## One step -/

/-- A step with nothing at the port changes nothing. -/
theorem step_idle {s : State} (h : s.pending = []) : step s = .next s := by
  simp only [step, takeEvent, h, idle]

/-- A step whose next event is a word is the transaction of that word. -/
theorem step_command {s : State} {w : CmdWord} {rest : List PortEvent}
    (h : s.pending = .command w :: rest) : step s = send w (s.setPending rest) := by
  have hs : (s.setPending rest).present w = s := by
    rw [State.present, State.setPending_pending, ← h]
    rfl
  rw [send, hs]

/-- Settles O11: a word at the port is a transaction, and `withFetchWord` presents the word of its number. -/
theorem stepRunsTheDecodedCommand : Obligations.StepRunsTheDecodedCommand := by
  refine ⟨fun s w rest h => ⟨fun i hi => ?_, fun e he => ?_⟩, fun s => step_idle, fun s w i hi => ?_⟩
  · exact (step_command h).trans (send_of_ok hi _)
  · exact (step_command h).trans (send_of_error he _)
  · rw [State.withFetchWord, tableWord_sixteen]
    exact send_of_ok hi s

/-- Settles O15, by the three things that can stand at the port; a response takes nothing from it. -/
theorem stepAlwaysAnswers : Obligations.StepAlwaysAnswers := by
  intro s
  cases hp : s.pending with
  | nil => exact ⟨s, step_idle hp, hp⟩
  | cons event rest =>
    cases event with
    | reset f => exact ⟨_, step_reset hp, rfl⟩
    | command w =>
      obtain ⟨d, u, hsend, -, hpending⟩ := send_responds w (s.setPending rest)
      exact ⟨_, (step_command hp).trans hsend, hpending⟩

end Sys2Proof.Machine
end

section
/-!
The statements of 10_state.md on the whole state: reset, the error record the block can hold, and each field's writers
and readers.
-/

namespace Sys2Proof.Machine

/-! ## Reset -/

/-- Settles O2: a step whose event is a reset is `applyReset`. -/
theorem resetEventRestoresEveryField : Obligations.ResetEventRestoresEveryField :=
  fun _ _ _ h => ⟨_, step_reset h, rfl, rfl, rfl, rfl, rfl, rfl, rfl, rfl, rfl⟩

/-- Settles O35: no error is recorded at reset. -/
theorem resetErrorRecordOk : Obligations.ResetErrorRecordOk := .inl ⟨rfl, rfl⟩

/-! ## The error record -/

/-- Recording an error keeps the error record one the block can hold: the first error's code is one of 1 to 4. -/
theorem errorRecordOk_raiseCmdError {s : State} (h : ErrorRecordOk s) (e : CmdError) :
    ErrorRecordOk (raiseCmdError e s) := by
  refine .inr ⟨raiseCmdError_err e s, ?_⟩
  rw [raiseCmdError_errcode]
  rcases h with ⟨herr, -⟩ | ⟨herr, hcode⟩
  · rw [herr]
    exact e.code_cases
  · rw [herr]
    exact hcode

/-- The same error record is as well formed. -/
theorem errorRecordOk_of_same {s t : State} (h : ErrorRecordOk s) (hst : SameErrorRecord s t) :
    ErrorRecordOk t := by
  obtain ⟨herr, hcode⟩ := hst
  rwa [ErrorRecordOk, herr, hcode]

/-- Every word keeps the error record one the block can hold: it is rejected, or clears the record, or keeps it. -/
theorem errorRecordOk_of_send {w : CmdWord} {s t : State} (h : ErrorRecordOk s) (hsend : send w s = .next t) :
    ErrorRecordOk t := by
  cases hrej : rejection w s with
  | some e =>
    cases hsend.symm.trans (send_of_rejection hrej)
    exact errorRecordOk_raiseCmdError h e
  | none =>
    obtain ⟨u, hu, hrecord⟩ := send_of_accepted hrej
    cases hsend.symm.trans hu
    split at hrecord
    · exact .inl hrecord
    · exact errorRecordOk_of_same h hrecord

/-- Settles O34: of the events at the port, a reset clears the error record and a word keeps it well formed. -/
theorem stepKeepsErrorRecordOk : Obligations.StepKeepsErrorRecordOk := by
  intro s t hs h
  cases hp : s.pending with
  | nil =>
    cases h.symm.trans (step_idle hp)
    exact hs
  | cons event rest =>
    cases event with
    | reset f =>
      cases h.symm.trans (step_reset hp)
      exact resetErrorRecordOk
    | command w => exact errorRecordOk_of_send (s := s.setPending rest) hs ((step_command hp).symm.trans h)

/-- The error record of every state the block can be in (R26, R141). -/
theorem Reachable.errorRecordOk {s : State} (h : Reachable s) : ErrorRecordOk s := by
  induction h with
  | reset => exact resetErrorRecordOk
  | host s es _ ih => exact ih
  | step s t _ hstep ih => exact stepKeepsErrorRecordOk s t ih hstep

/-- Settles O36, by the error record of every reachable state. -/
theorem reachableErrorCodes : Obligations.ReachableErrorCodes := by
  intro s hs
  rcases hs.errorRecordOk with ⟨herr, hcode⟩ | ⟨herr, hcode⟩
  · simp [herr, hcode]
  · rcases hcode with hcode | hcode | hcode | hcode <;> simp [herr, hcode]

end Sys2Proof.Machine
end

section
/-!
R29, the column "written by": the commands that can change each field.
-/

namespace Sys2Proof.Machine

/-- LDINIT, UPD and FIN are the commands that write CRC (R29). -/
theorem Effect.crc_eq_of_not_writer {i : Instr} {s t : State} (h : Effect s i t)
    (hi : i.opcode ∉ [0x01#8, 0x20#8, 0x30#8]) : t.crc = s.crc := by
  simp only [List.mem_cons, List.not_mem_nil, or_false, not_or] at hi
  obtain ⟨hldinit, hupd, hfin⟩ := hi
  rw [h.crc_eq hldinit fun hop => absurd hop hupd, if_neg]
  rintro rfl
  exact hfin rfl

/-- LDPOLY and NORM are the commands that write POLY (R29). -/
theorem Effect.poly_eq_of_not_writer {i : Instr} {s t : State} (h : Effect s i t)
    (hi : i.opcode ∉ [0x02#8, 0x10#8]) : t.poly = s.poly := by
  cases h with
  | badOperand | notReady | alreadyReady => exact raiseCmdError_poly _ _
  | ldpoly | norm => simp [Instr.opcode] at hi
  | nop | ldinit | ldrefl | ldxor | ldmode | upd | fin | rd | clrerr => rfl

/-- LDREFL and LDMODE are the commands that write MODE (R29). -/
theorem Effect.mode_eq_of_not_writer {i : Instr} {s t : State} (h : Effect s i t)
    (hi : i.opcode ∉ [0x03#8, 0x05#8]) : t.mode = s.mode := by
  cases h with
  | badOperand | notReady | alreadyReady => exact raiseCmdError_mode _ _
  | ldrefl | ldmode => simp [Instr.opcode] at hi
  | nop | ldinit | ldpoly | ldxor | norm | upd | fin | rd | clrerr => rfl

/-- LDPOLY, LDREFL, NORM and LDMODE are the commands that write PHASE (R29). -/
theorem Effect.phase_eq_of_not_writer {i : Instr} {s t : State} (h : Effect s i t)
    (hi : i.opcode ∉ [0x02#8, 0x03#8, 0x10#8, 0x05#8]) : t.phase = s.phase := by
  cases h with
  | badOperand | notReady | alreadyReady => exact raiseCmdError_phase _ _
  | ldpoly | ldrefl | norm | ldmode => simp [Instr.opcode] at hi
  | nop | ldinit | ldxor | upd | fin | rd | clrerr => rfl

/-- A field that rejections keep and that only commands with an opcode of `ops` write changes only in a step
whose event is a reset or one of those commands (R29). -/
theorem presentsOneOf_of_field_ne {α : Type} {field : State → α} {ops : List Byte}
    (hport : ∀ s es, field (s.setPending es) = field s)
    (hreject : ∀ e s, field (raiseCmdError e s) = field s)
    (heffect : ∀ {i s t}, Effect s i t → i.opcode ∉ ops → field t = field s)
    {s t : State} (h : step s = .next t) (hne : field t ≠ field s) : presentsOneOf ops s = true := by
  rcases step_cases h with
    ⟨-, rfl⟩ | ⟨f, es, hp, -⟩ | ⟨w, es, e, -, -, rfl⟩ | ⟨w, es, i, hp, hd, hexec⟩
  · exact absurd rfl hne
  · simp [presentsOneOf, hp]
  · exact absurd ((hreject _ _).trans (hport s es)) hne
  · obtain rfl := encode_of_decode hd
    by_contra hev
    have hop : i.opcode ∉ ops := by simpa [presentsOneOf, hp] using hev
    exact hne ((heffect (effect_of_exec hexec) hop).trans (hport s es))

/-- The error record changes only in a step whose event is a reset, CLRERR or a word that is rejected (R29). -/
theorem event_of_errorRecord_ne {s t : State} (h : step s = .next t)
    (hne : t.err ≠ s.err ∨ t.errcode ≠ s.errcode) :
    presentsOneOf [0x50#8] s = true ∨
      ∃ w rest, s.pending = .command w :: rest ∧ rejection w s ≠ none := by
  cases hp : s.pending with
  | nil =>
    cases h.symm.trans (step_idle hp)
    simp at hne
  | cons event rest =>
    cases event with
    | reset f => simp [presentsOneOf, hp]
    | command w =>
      by_cases hrej : rejection w s = none
      · obtain ⟨u, hu, hrecord⟩ := send_of_accepted (s := s.setPending rest) hrej
        cases (h.symm.trans (step_command hp)).trans hu
        by_cases hw : w = 0x5000#16
        · have hop : opField w = 0x50#8 := hw ▸ rfl
          exact .inl (by simp [presentsOneOf, hp, hop])
        · obtain ⟨herr, hcode⟩ := (if_neg hw).mp hrecord
          exact absurd hne (not_or.mpr ⟨not_not.mpr herr, not_not.mpr hcode⟩)
      · exact .inr ⟨w, rest, rfl, hrej⟩

/-- Settles O29: for each field, the commands that write it; for the error record, the words that are rejected. -/
theorem fieldsChangeOnlyByTheirWriters : Obligations.FieldsChangeOnlyByTheirWriters := by
  intro s t h
  refine ⟨?_, ?_, ?_, ?_, ?_, event_of_errorRecord_ne h⟩
  · exact presentsOneOf_of_field_ne (fun _ _ => rfl) raiseCmdError_crc Effect.crc_eq_of_not_writer h
  · exact presentsOneOf_of_field_ne (fun _ _ => rfl) raiseCmdError_poly Effect.poly_eq_of_not_writer h
  · exact presentsOneOf_of_field_ne (fun _ _ => rfl) raiseCmdError_xorout
      (fun ht hi => ht.xorout_eq (by simpa using hi)) h
  · exact presentsOneOf_of_field_ne (fun _ _ => rfl) raiseCmdError_mode Effect.mode_eq_of_not_writer h
  · exact presentsOneOf_of_field_ne (fun _ _ => rfl) raiseCmdError_phase Effect.phase_eq_of_not_writer h

end Sys2Proof.Machine
end

section
/-!
R29, the column "read by": two states that differ in one field, and a command that does not read it.
-/

namespace Sys2Proof.Machine

/-- `s` with `rs` as all the words it has answered. -/
def State.setResponses (rs : List RspWord) (s : State) : State := { s with responses := rs }

/-! ## Rejections and RD on a changed state -/

/-- Recording an error commutes with a change of the state that it neither reads nor overwrites. -/
theorem recordError_comm {f : State → State} (herr : ∀ s, (f s).err = s.err)
    (hrecord : ∀ c s, (f s).setErrorRecord true c = f (s.setErrorRecord true c)) (e : CmdError)
    (s : State) : recordError e (f s) = f (recordError e s) := by
  rw [recordError, recordError, herr, hrecord]
  split <;> rfl

/-- Recording and answering an error commutes with a change of the state that neither reads. -/
theorem raiseCmdError_comm {f : State → State} (herr : ∀ s, (f s).err = s.err)
    (hrecord : ∀ c s, (f s).setErrorRecord true c = f (s.setErrorRecord true c))
    (hrespond : ∀ s, respondCrc (f s) = f (respondCrc s)) (e : CmdError) (s : State) :
    raiseCmdError e (f s) = f (raiseCmdError e s) := by
  rw [raiseCmdError, recordError_comm herr hrecord]
  exact hrespond _

/-- Recording and answering an error commutes with a change of the state that only the answer shows, but for the
answers. -/
theorem raiseCmdError_comm_but_responses {f : State → State} (herr : ∀ s, (f s).err = s.err)
    (hrecord : ∀ c s, (f s).setErrorRecord true c = f (s.setErrorRecord true c))
    (hrespond : ∀ s, ∃ rs, respondCrc (f s) = (f (respondCrc s)).setResponses rs) (e : CmdError)
    (s : State) : ∃ rs, raiseCmdError e (f s) = (f (raiseCmdError e s)).setResponses rs := by
  rw [raiseCmdError, recordError_comm herr hrecord]
  exact hrespond _

/-- Recording and answering an error does not read POLY. -/
theorem raiseCmdError_setPoly (e : CmdError) (s : State) (v : Byte) :
    raiseCmdError e (s.setPoly v) = (raiseCmdError e s).setPoly v :=
  raiseCmdError_comm (f := State.setPoly v) (fun _ => rfl) (fun _ _ => rfl) (fun _ => rfl) e s

/-- Recording and answering an error does not read what is presented at the port. -/
theorem raiseCmdError_setPending (e : CmdError) (s : State) (es : List PortEvent) :
    raiseCmdError e (s.setPending es) = (raiseCmdError e s).setPending es :=
  raiseCmdError_comm (f := State.setPending es) (fun _ => rfl) (fun _ _ => rfl) (fun _ => rfl) e s

/-- A rejection shows CRC in its answer, and does nothing else with it. -/
theorem raiseCmdError_setCrc (e : CmdError) (s : State) (v : Byte) :
    ∃ rs, raiseCmdError e (s.setCrc v) = ((raiseCmdError e s).setCrc v).setResponses rs :=
  raiseCmdError_comm_but_responses (f := State.setCrc v) (fun _ => rfl) (fun _ _ => rfl) (fun _ => ⟨_, rfl⟩) e s

/-- A rejection shows MODE in its answer, and does nothing else with it. -/
theorem raiseCmdError_setMode (e : CmdError) (s : State) (m : Mode) :
    ∃ rs, raiseCmdError e (s.setMode m) = ((raiseCmdError e s).setMode m).setResponses rs :=
  raiseCmdError_comm_but_responses (f := State.setMode m) (fun _ => rfl) (fun _ _ => rfl) (fun _ => ⟨_, rfl⟩) e s

/-- A rejection shows PHASE in its answer, and does nothing else with it. -/
theorem raiseCmdError_setPhase (e : CmdError) (s : State) (p : Phase) :
    ∃ rs, raiseCmdError e (s.setPhase p) = ((raiseCmdError e s).setPhase p).setResponses rs :=
  raiseCmdError_comm_but_responses (f := State.setPhase p) (fun _ => rfl) (fun _ _ => rfl) (fun _ => ⟨_, rfl⟩) e s

/-- A reserved operand is one of a command that has reserved operands (R64). -/
theorem opcode_ne_of_badOperand {i : Instr} (h : i.wellFormed = false) {op : Byte}
    (hop : op ∉ [0x00#8, 0x05#8, 0x10#8, 0x30#8, 0x40#8, 0x50#8]) : i.opcode ≠ op := by
  rintro rfl
  cases i with
  | ldinit | ldpoly | ldrefl | ldxor | upd => cases h
  | nop | ldmode | norm | fin | rd | clrerr => simp [Instr.opcode] at hop

/-- A selector reads the same register of two states that agree on it. -/
theorem selectedValue_congr {imm : Byte} {s u : State} (hcrc : imm = 0x00#8 → s.crc = u.crc)
    (hpoly : imm = 0x01#8 → s.poly = u.poly) (hflag : imm = 0x02#8 → flagOf s = flagOf u)
    (hxorout : imm = 0x03#8 → s.xorout = u.xorout) (hstatus : imm = 0x04#8 → statusOf s = statusOf u) :
    selectedValue imm s = selectedValue imm u := by
  rcases selectedValue_cases imm s with
    ⟨rfl, h⟩ | ⟨rfl, h⟩ | ⟨rfl, h⟩ | ⟨rfl, h⟩ | ⟨rfl, h⟩ | ⟨hlt, h⟩
  · exact congrArg some (hcrc rfl)
  · exact congrArg some (hpoly rfl)
  · exact congrArg some (hflag rfl)
  · exact congrArg some (hxorout rfl)
  · exact congrArg some (hstatus rfl)
  · have hnone := (wellFormed_rd imm u).symm.trans ((wellFormed_rd imm s).trans (congrArg _ h))
    rw [h, Option.not_isSome_iff_eq_none.mp (Bool.eq_false_iff.mp hnone)]

/-- A selector that reads a register in one state reads one in every state. -/
theorem exec_rd_of_selectedValue {imm d : Byte} {s : State} (h : selectedValue imm s = some d) (u : State) :
    ∃ d', exec (.rd imm) u = .next (respond d' u) := by
  have hsome : (selectedValue imm u).isSome :=
    (wellFormed_rd imm u).symm.trans ((wellFormed_rd imm s).trans (Option.isSome_of_eq_some h))
  obtain ⟨d', hd'⟩ := Option.isSome_iff_exists.mp hsome
  exact ⟨d', exec_of_effect (.rd hd')⟩

/-! ## A command that does not read the field -/

/-- A command that reads neither POLY nor its register does the same whatever POLY holds; LDPOLY overwrites it. -/
theorem Effect.exec_setPoly {i : Instr} {s t : State} (h : Effect s i t) (hnorm : i.opcode ≠ 0x10#8)
    (hupd : i.opcode ≠ 0x20#8) (hrd : i ≠ .rd 0x01#8) (v : Byte) :
    exec i (s.setPoly v) = .next (t.setPoly (if i.opcode = 0x02#8 then t.poly else v)) := by
  cases h with
  | badOperand h =>
    rw [exec_badOperand h, if_neg (opcode_ne_of_badOperand h (by decide)), raiseCmdError_setPoly]
  | notReady | upd => exact absurd rfl hupd
  | alreadyReady | norm => exact absurd rfl hnorm
  | rd h =>
    refine exec_of_effect (.rd (Eq.trans ?_ h))
    exact selectedValue_congr (fun _ => rfl) (fun himm => absurd (congrArg _ himm) hrd) (fun _ => rfl)
      (fun _ => rfl) fun _ => rfl
  | ldmode h => exact exec_of_effect (.ldmode h)
  | nop | ldinit | ldpoly | ldrefl | ldxor | fin | clrerr => rfl

/-- A command that reads neither XOROUT nor its register does the same whatever XOROUT holds; LDXOR overwrites
it. -/
theorem Effect.exec_setXorout {i : Instr} {s t : State} (h : Effect s i t) (hfin : i.opcode ≠ 0x30#8)
    (hrd : i ≠ .rd 0x03#8) (v : Byte) :
    exec i (s.setXorout v) = .next (t.setXorout (if i.opcode = 0x04#8 then t.xorout else v)) := by
  cases h with
  | badOperand h =>
    rw [exec_badOperand h, if_neg (opcode_ne_of_badOperand h (by decide)), raiseCmdError_setXorout]
  | notReady imm h => exact raiseCmdError_setXorout _ s v ▸ exec_of_effect (.notReady imm h)
  | alreadyReady h => exact raiseCmdError_setXorout _ s v ▸ exec_of_effect (.alreadyReady h)
  | fin => exact absurd rfl hfin
  | rd h =>
    refine exec_of_effect (.rd (Eq.trans ?_ h))
    exact selectedValue_congr (fun _ => rfl) (fun _ => rfl) (fun _ => rfl)
      (fun himm => absurd (congrArg _ himm) hrd) fun _ => rfl
  | ldmode h => exact exec_of_effect (.ldmode h)
  | norm h => exact exec_of_effect (.norm h)
  | upd imm h => exact exec_of_effect (.upd imm h)
  | nop | ldinit | ldpoly | ldrefl | ldxor | clrerr => rfl

/-- A command other than UPD and FIN does the same whatever CRC holds, but for what is answered; LDINIT overwrites
it. -/
theorem Effect.exec_setCrc {i : Instr} {s t : State} (h : Effect s i t) (hupd : i.opcode ≠ 0x20#8)
    (hfin : i.opcode ≠ 0x30#8) (v : Byte) : ∃ rs, exec i (s.setCrc v) =
      .next ((t.setCrc (if i.opcode = 0x01#8 then t.crc else v)).setResponses rs) := by
  cases h with
  | badOperand h =>
    obtain ⟨rs, hrs⟩ := raiseCmdError_setCrc .badOperand s v
    exact ⟨rs, by rw [exec_badOperand h, if_neg (opcode_ne_of_badOperand h (by decide)), hrs]⟩
  | alreadyReady h =>
    obtain ⟨rs, hrs⟩ := raiseCmdError_setCrc .alreadyReady s v
    exact ⟨rs, hrs ▸ exec_of_effect (.alreadyReady h)⟩
  | notReady | upd => exact absurd rfl hupd
  | fin => exact absurd rfl hfin
  | rd h =>
    obtain ⟨d, hd⟩ := exec_rd_of_selectedValue h (s.setCrc v)
    exact ⟨_, hd⟩
  | ldmode h => exact ⟨_, exec_of_effect (.ldmode h)⟩
  | norm h => exact ⟨_, exec_of_effect (.norm h)⟩
  | nop | ldinit | ldpoly | ldrefl | ldxor | clrerr => exact ⟨_, rfl⟩

/-- The command writes MODE: LDREFL, or LDMODE with a legal operand (R29). -/
abbrev WritesMode (i : Instr) : Prop := i.opcode = 0x03#8 ∨ i = .ldmode 0x80#8 ∨ i = .ldmode 0x01#8

/-- A rejected operand is no write of MODE. -/
theorem not_writesMode_of_badOperand {i : Instr} (h : i.wellFormed = false) : ¬ WritesMode i := by
  rintro (hop | rfl | rfl)
  · exact opcode_ne_of_badOperand h (by decide) hop
  · cases h
  · cases h

/-- LDMODE with a legal operand writes MODE. -/
theorem writesMode_ldmode {imm : Byte} {m : Mode} (h : normalizedFlag imm = some m) :
    WritesMode (.ldmode imm) := by
  rcases normalizedFlag_cases imm with ⟨rfl, -⟩ | ⟨rfl, -⟩ | ⟨-, -, hnone⟩
  · exact .inr (.inl rfl)
  · exact .inr (.inr rfl)
  · cases hnone.symm.trans h

/-- A command other than NORM and UPD does the same whatever MODE holds, but for what is answered; the commands that
write MODE overwrite it. -/
theorem Effect.exec_setMode {i : Instr} {s t : State} (h : Effect s i t) (hnorm : i.opcode ≠ 0x10#8)
    (hupd : i.opcode ≠ 0x20#8) (m : Mode) : ∃ rs, exec i (s.setMode m) =
      .next ((t.setMode (if WritesMode i then t.mode else m)).setResponses rs) := by
  cases h with
  | badOperand h =>
    obtain ⟨rs, hrs⟩ := raiseCmdError_setMode .badOperand s m
    exact ⟨rs, by rw [exec_badOperand h, if_neg (not_writesMode_of_badOperand h), hrs]⟩
  | notReady | upd => exact absurd rfl hupd
  | alreadyReady | norm => exact absurd rfl hnorm
  | rd h =>
    obtain ⟨d, hd⟩ := exec_rd_of_selectedValue h (s.setMode m)
    exact ⟨_, hd⟩
  | ldmode h =>
    rw [if_pos (writesMode_ldmode h)]
    exact ⟨_, exec_of_effect (.ldmode h)⟩
  | nop | ldinit | ldpoly | ldrefl | ldxor | fin | clrerr => exact ⟨_, rfl⟩

/-- A command other than NORM and UPD does the same whatever PHASE holds, but for what is answered; LDPOLY and the
commands that write MODE overwrite it. -/
theorem Effect.exec_setPhase {i : Instr} {s t : State} (h : Effect s i t) (hnorm : i.opcode ≠ 0x10#8)
    (hupd : i.opcode ≠ 0x20#8) (p : Phase) : ∃ rs, exec i (s.setPhase p) =
      .next ((t.setPhase (if i.opcode = 0x02#8 ∨ WritesMode i then t.phase else p)).setResponses rs) := by
  cases h with
  | @badOperand i h =>
    obtain ⟨rs, hrs⟩ := raiseCmdError_setPhase .badOperand s p
    have hldpoly : i.opcode ≠ 0x02#8 := opcode_ne_of_badOperand h (by decide)
    have hkept := not_or.mpr ⟨hldpoly, not_writesMode_of_badOperand h⟩
    exact ⟨rs, by rw [exec_badOperand h, if_neg hkept, hrs]⟩
  | notReady | upd => exact absurd rfl hupd
  | alreadyReady | norm => exact absurd rfl hnorm
  | rd h =>
    obtain ⟨d, hd⟩ := exec_rd_of_selectedValue h (s.setPhase p)
    exact ⟨_, hd⟩
  | ldmode h =>
    rw [if_pos (.inr (writesMode_ldmode h))]
    exact ⟨_, exec_of_effect (.ldmode h)⟩
  | nop | ldinit | ldpoly | ldrefl | ldxor | fin | clrerr => exact ⟨_, rfl⟩

end Sys2Proof.Machine
end

section
/-!
The statements of 10_state.md on the readers of each field (R29).
-/

namespace Sys2Proof.Machine

/-- A word that reads neither POLY nor its register (R29). -/
theorem send_setPoly {w : CmdWord} (hnorm : opField w ≠ 0x10#8) (hupd : opField w ≠ 0x20#8)
    (hrd : w ≠ 0x4001#16) (s : State) (v : Byte) : ∃ t, send w s = .next t ∧
      send w (s.setPoly v) = .next (t.setPoly (if opField w = 0x02#8 then t.poly else v)) := by
  rcases send_cases w s with ⟨e, hd, h⟩ | ⟨i, t, rfl, h, ht⟩
  · refine ⟨_, h, ?_⟩
    have hldpoly : opField w ≠ 0x02#8 := opField_ne_opcode hd (.ldpoly 0x00#8)
    rw [send_of_error hd, if_neg hldpoly, raiseCmdError_setPoly]
  · refine ⟨t, h, ?_⟩
    have hi : i ≠ .rd 0x01#8 := fun hi => hrd (congrArg encode hi)
    rw [opField_encode] at hnorm hupd ⊢
    exact (send_of_ok (decode_encode i) _).trans (ht.exec_setPoly hnorm hupd hi v)

/-- A word that reads neither XOROUT nor its register (R24, R29). -/
theorem send_setXorout_of_not_reader {w : CmdWord} (hfin : opField w ≠ 0x30#8) (hrd : w ≠ 0x4003#16)
    (s : State) (v : Byte) : ∃ t, send w s = .next t ∧
      send w (s.setXorout v) = .next (t.setXorout (if opField w = 0x04#8 then t.xorout else v)) := by
  rcases send_cases w s with ⟨e, hd, h⟩ | ⟨i, t, rfl, h, ht⟩
  · refine ⟨_, h, ?_⟩
    have hldxor : opField w ≠ 0x04#8 := opField_ne_opcode hd (.ldxor 0x00#8)
    rw [send_of_error hd, if_neg hldxor, raiseCmdError_setXorout]
  · refine ⟨t, h, ?_⟩
    have hi : i ≠ .rd 0x03#8 := fun hi => hrd (congrArg encode hi)
    rw [opField_encode] at hfin ⊢
    exact (send_of_ok (decode_encode i) _).trans (ht.exec_setXorout hfin hi v)

/-- A word that reads CRC for its answer only (R29). -/
theorem send_setCrc {w : CmdWord} (hupd : opField w ≠ 0x20#8) (hfin : opField w ≠ 0x30#8) (s : State)
    (v : Byte) : ∃ t rs, send w s = .next t ∧ send w (s.setCrc v) =
      .next ((t.setCrc (if opField w = 0x01#8 then t.crc else v)).setResponses rs) := by
  rcases send_cases w s with ⟨e, hd, h⟩ | ⟨i, t, rfl, h, ht⟩
  · obtain ⟨rs, hrs⟩ := raiseCmdError_setCrc .illegalOpcode s v
    have hldinit : opField w ≠ 0x01#8 := opField_ne_opcode hd (.ldinit 0x00#8)
    exact ⟨_, rs, h, by rw [send_of_error hd, if_neg hldinit, hrs]⟩
  · rw [opField_encode] at hupd hfin ⊢
    obtain ⟨rs, hrs⟩ := ht.exec_setCrc hupd hfin v
    exact ⟨t, rs, h, (send_of_ok (decode_encode i) _).trans hrs⟩

/-- Settles O30, by the commands that read none of the three bytes, each byte by itself. -/
theorem bytesAreReadOnlyByTheirReaders : Obligations.BytesAreReadOnlyByTheirReaders :=
  fun _ s v => ⟨fun hnorm hupd hrd => send_setPoly hnorm hupd hrd s v,
    fun hfin hrd => send_setXorout_of_not_reader hfin hrd s v, fun hupd hfin => send_setCrc hupd hfin s v⟩

/-- The words that write MODE are those of the commands that do (R29). -/
theorem writesMode_encode_iff (i : Instr) :
    (opField (encode i) = 0x03#8 ∨ encode i = 0x0580#16 ∨ encode i = 0x0501#16) ↔ WritesMode i := by
  have hnormal : (0x0580#16 : CmdWord) = encode (.ldmode 0x80#8) := rfl
  have hreflected : (0x0501#16 : CmdWord) = encode (.ldmode 0x01#8) := rfl
  rw [opField_encode, hnormal, hreflected, encode_inj, encode_inj]

/-- A word that is no command does not write MODE. -/
theorem not_writesMode_of_error {w : CmdWord} {e : DecodeError} (h : decode w = .error e) :
    ¬ (opField w = 0x03#8 ∨ w = 0x0580#16 ∨ w = 0x0501#16) :=
  not_or.mpr ⟨opField_ne_opcode h (.ldrefl 0x00#8),
    not_or.mpr ⟨ne_encode h (.ldmode 0x80#8), ne_encode h (.ldmode 0x01#8)⟩⟩

/-- A word that reads MODE for its answer only (R29). -/
theorem send_setMode {w : CmdWord} (hnorm : opField w ≠ 0x10#8) (hupd : opField w ≠ 0x20#8) (s : State)
    (m : Mode) : ∃ t rs, send w s = .next t ∧ send w (s.setMode m) = .next ((t.setMode
      (if opField w = 0x03#8 ∨ w = 0x0580#16 ∨ w = 0x0501#16 then t.mode else m)).setResponses rs) := by
  rcases send_cases w s with ⟨e, hd, h⟩ | ⟨i, t, rfl, h, ht⟩
  · obtain ⟨rs, hrs⟩ := raiseCmdError_setMode .illegalOpcode s m
    exact ⟨_, rs, h, by rw [send_of_error hd, if_neg (not_writesMode_of_error hd), hrs]⟩
  · simp only [writesMode_encode_iff]
    rw [opField_encode] at hnorm hupd
    obtain ⟨rs, hrs⟩ := ht.exec_setMode hnorm hupd m
    exact ⟨t, rs, h, (send_of_ok (decode_encode i) _).trans hrs⟩

/-- A word that reads PHASE for its answer only (R29). -/
theorem send_setPhase {w : CmdWord} (hnorm : opField w ≠ 0x10#8) (hupd : opField w ≠ 0x20#8) (s : State)
    (p : Phase) : ∃ t rs, send w s = .next t ∧ send w (s.setPhase p) = .next ((t.setPhase
      (if opField w = 0x02#8 ∨ opField w = 0x03#8 ∨ w = 0x0580#16 ∨ w = 0x0501#16 then t.phase
        else p)).setResponses rs) := by
  rcases send_cases w s with ⟨e, hd, h⟩ | ⟨i, t, rfl, h, ht⟩
  · obtain ⟨rs, hrs⟩ := raiseCmdError_setPhase .illegalOpcode s p
    have hldpoly : opField w ≠ 0x02#8 := opField_ne_opcode hd (.ldpoly 0x00#8)
    have hkept := not_or.mpr ⟨hldpoly, not_writesMode_of_error hd⟩
    exact ⟨_, rs, h, by rw [send_of_error hd, if_neg hkept, hrs]⟩
  · simp only [writesMode_encode_iff]
    rw [opField_encode] at hnorm hupd ⊢
    obtain ⟨rs, hrs⟩ := ht.exec_setPhase hnorm hupd p
    exact ⟨t, rs, h, (send_of_ok (decode_encode i) _).trans hrs⟩

/-- Settles O31, by the commands that read neither MODE nor PHASE, and the recipe's independence of the error
record. -/
theorem bitsAreReadOnlyByTheirReaders : Obligations.BitsAreReadOnlyByTheirReaders :=
  fun w s m p e c => ⟨fun hnorm hupd => send_setMode hnorm hupd s m,
    fun hnorm hupd => send_setPhase hnorm hupd s p, send_setErrorRecord w s e c⟩

end Sys2Proof.Machine
end

section
/-!
The statements of 20_memory.md: commands and responses in order, commands that change nothing, and the order of a
byte's bits.
-/

namespace Sys2Proof.Machine

/-! ## The port -/

/-- What a command does does not depend on what the host presents next (R30). -/
theorem Effect.exec_setPending {i : Instr} {s t : State} (h : Effect s i t) (es : List PortEvent) :
    exec i (s.setPending es) = .next (t.setPending es) := by
  cases h with
  | badOperand h => rw [exec_badOperand h, raiseCmdError_setPending]
  | notReady imm h => exact raiseCmdError_setPending _ s es ▸ exec_of_effect (.notReady imm h)
  | alreadyReady h => exact raiseCmdError_setPending _ s es ▸ exec_of_effect (.alreadyReady h)
  | ldmode h => exact exec_of_effect (.ldmode h)
  | norm h => exact exec_of_effect (.norm h)
  | upd imm h => exact exec_of_effect (.upd imm h)
  | rd h => exact exec_of_effect (.rd h)
  | nop | ldinit | ldpoly | ldrefl | ldxor | fin | clrerr => rfl

/-- A transaction is the same whatever the host presents next, and takes nothing of it (R30, R49). -/
theorem send_setPending (w : CmdWord) (s : State) : ∃ t, send w s = .next t ∧ t.pending = s.pending ∧
    ∀ es, send w (s.setPending es) = .next (t.setPending es) := by
  rcases send_cases w s with ⟨e, hd, h⟩ | ⟨i, t, rfl, h, ht⟩
  · exact ⟨_, h, raiseCmdError_pending _ s, fun es => by rw [send_of_error hd, raiseCmdError_setPending]⟩
  · obtain ⟨d, u, rfl, -, hpending⟩ := ht.responds
    exact ⟨_, h, hpending, fun es => (send_of_ok (decode_encode i) _).trans (ht.exec_setPending es)⟩

/-- The first word of a queue is performed as a transaction, and the rest stays queued (R49). -/
theorem step_presentAll_cons (w : CmdWord) (ws : List CmdWord) (s : State) :
    ∃ t, send w s = .next t ∧ step (s.presentAll (w :: ws)) = .next (t.presentAll ws) := by
  obtain ⟨t, ht, hpending, hport⟩ := send_setPending w s
  have hstep : step (s.presentAll (w :: ws)) = send w (s.setPending (ws.map .command ++ s.pending)) :=
    step_command rfl
  exact ⟨t, ht, by rw [hstep, hport, ← hpending, State.presentAll]⟩

/-- A queue at the port is performed as the transactions one by one (R49). -/
theorem run_presentAll (ws : List CmdWord) (s : State) :
    Sys2Proof.core.run ws.length (s.presentAll ws) = sendAll ws s := by
  induction ws generalizing s with
  | nil => rfl
  | cons w ws ih =>
    obtain ⟨t, hsend, hstep⟩ := step_presentAll_cons w ws s
    rw [List.length_cons, core_run_succ hstep, ih, sendAll_cons hsend]

/-- A sequence of words adds one response for each (R49, R68). -/
theorem sendAll_responses (ws : List CmdWord) (s : State) :
    ∃ t rs, sendAll ws s = .next t ∧ t.responses = s.responses ++ rs ∧ rs.length = ws.length := by
  induction ws generalizing s with
  | nil => exact ⟨s, [], rfl, (List.append_nil _).symm, rfl⟩
  | cons w ws ih =>
    obtain ⟨d, u, hu, hresp, -⟩ := send_responds w s
    obtain ⟨t, rs, ht, hrs, hlen⟩ := ih (respond d u)
    refine ⟨t, (statusOf u ++ d) :: rs, (sendAll_cons hu).trans ht, ?_, congrArg (· + 1) hlen⟩
    rw [hrs, respond_responses, hresp, List.append_assoc, List.singleton_append]

/-- Settles O37: the queue word by word, and the responses of one sequence before those of the next. -/
theorem commandsAndResponsesInOrder : Obligations.CommandsAndResponsesInOrder := by
  refine ⟨run_presentAll, fun ws vs s => ?_⟩
  obtain ⟨t, rs, ht, hrs, hrslen⟩ := sendAll_responses ws s
  obtain ⟨u, qs, hu, hqs, hqslen⟩ := sendAll_responses vs t
  exact ⟨t, u, rs, qs, ht, hu, (sendAll_append ht vs).trans hu, hrs, hrslen, hqs, hqslen⟩

/-! ## Commands that change nothing -/

/-- An accepted NOP or RD only answers, and answers the same byte again (R48). -/
theorem send_nop_or_rd {w : CmdWord} (h : w = 0x0000#16 ∨ (opField w = 0x40#8 ∧ (immField w).toNat ≤ 4))
    (s : State) : ∃ d, send w s = .next (respond d s) ∧
      send w (respond d s) = .next (respond d (respond d s)) := by
  rcases h with rfl | ⟨hop, himm⟩
  · have hnop (u : State) : send 0x0000#16 u = .next (respondCrc u) :=
      (send_of_ok (decode_encode (.nop 0x00#8)) u).trans (exec_of_effect .nop)
    exact ⟨s.crc, hnop s, hnop _⟩
  · have hw : encode (.rd (immField w)) = w := by
      rw [← cmdWord_fields w, hop]
      simp only [encode, Instr.opcode, Instr.operand, immField_cmdWord]
    have hwf : (Instr.rd (immField w)).wellFormed = true := decide_eq_true himm
    obtain ⟨d, hd⟩ := Option.isSome_iff_exists.mp (wellFormed_rd (immField w) s ▸ hwf)
    have hrd {u : State} (hu : selectedValue (immField w) u = some d) : send w u = .next (respond d u) :=
      hw ▸ (send_of_ok (decode_encode (.rd _)) u).trans (exec_of_effect (.rd hu))
    exact ⟨d, hrd hd, hrd hd⟩

/-- Settles O38, by the byte an accepted NOP or RD answers. -/
theorem rdAndNopAreIdempotent : Obligations.RdAndNopAreIdempotent := by
  intro w s hw
  obtain ⟨d, honce, htwice⟩ := send_nop_or_rd hw s
  refine ⟨statusOf s ++ d, honce, ?_⟩
  rw [sendAll_cons honce, sendAll_cons htwice, sendAll_nil, respond_eq_answered d (respond d s),
    respond_eq_answered d s, State.answered_answered]
  rfl

/-! ## The order of a byte's bits -/

/-- Normal mode tests bit 7 (R23). -/
theorem testedBit_normal (w : Byte) : testedBit .normal w = w.getLsbD 7 := by revert w; decide

/-- Reflected mode tests bit 0 (R23). -/
theorem testedBit_reflected (w : Byte) : testedBit .reflected w = w.getLsbD 0 := by revert w; decide

/-- The tested bit of a sum (R9, R23). -/
theorem testedBit_xor (mode : Mode) (v w : Byte) :
    testedBit mode (v ^^^ w) = (testedBit mode v != testedBit mode w) := by
  cases mode with
  | normal => simp [testedBit_normal]
  | reflected => simp [testedBit_reflected]

/-- The shift of a sum (R9, R23). -/
theorem Mode.shift_xor (mode : Mode) (v w : Byte) : mode.shift (v ^^^ w) = mode.shift v ^^^ mode.shift w := by
  cases mode with
  | normal => exact BitVec.shiftLeft_xor_distrib v w 1
  | reflected => exact BitVec.ushiftRight_xor_distrib v w 1

/-- Eight shifts leave nothing of a byte. -/
theorem Mode.shift_iterate_eight (mode : Mode) (w : Byte) : mode.shift^[8] w = 0x00#8 := by
  cases mode with
  | normal =>
    simp only [Function.iterate_succ_apply, Function.iterate_zero_apply, Mode.shift, ← BitVec.shiftLeft_add]
    exact BitVec.shiftLeft_eq_zero (Nat.le_refl 8)
  | reflected =>
    simp only [Function.iterate_succ_apply, Function.iterate_zero_apply, Mode.shift, ← BitVec.shiftRight_add]
    exact BitVec.ushiftRight_eq_zero (Nat.le_refl 8)

/-- The bits that `n` shifts of `w` bring to the tested place. -/
def testedBits (mode : Mode) : Nat → Byte → List Bool
  | 0, _ => []
  | n + 1, w => testedBit mode w :: testedBits mode n (mode.shift w)

/-- Eight shifts bring a byte's bits to the tested place in the order MODE consumes them (R43). -/
theorem testedBits_eight (mode : Mode) (b : Byte) : testedBits mode 8 b = bitOrder mode b := by
  cases mode with
  | normal => simp [testedBits, testedBit_normal, Mode.shift, bitOrder]
  | reflected => simp [testedBits, testedBit_reflected, Mode.shift, bitOrder]

/-- One iteration on a register with an input already XORed in: the register takes the input's tested bit, and
the rest of the input moves on. -/
theorem crcStep_xor (reg w poly : Byte) (mode : Mode) :
    crcStep (reg ^^^ w) poly mode = serialBit poly mode reg (testedBit mode w) ^^^ mode.shift w := by
  rw [crcStep, serialBit, testedBit_xor, Mode.shift_xor]
  split
  · rw [BitVec.xor_assoc, BitVec.xor_comm (mode.shift w), ← BitVec.xor_assoc]
  · rfl

/-- Iterations with the whole input XORed in first are the register fed bit by bit, with what is left of the
input still to come. -/
theorem crcSteps_xor (n : Nat) (reg w poly : Byte) (mode : Mode) : crcSteps n (reg ^^^ w) poly mode =
    (testedBits mode n w).foldl (serialBit poly mode) reg ^^^ mode.shift^[n] w := by
  induction n generalizing reg w with
  | zero => rfl
  | succ n ih => rw [crcSteps_succ, crcStep_xor, ih, testedBits, List.foldl_cons, Function.iterate_succ_apply]

/-- Settles O42: after eight iterations nothing of the input is left to come. -/
theorem bitOrderWithinAByte : Obligations.BitOrderWithinAByte := by
  intro crc poly mode b
  rw [crcByte, crcSteps_xor, Mode.shift_iterate_eight, BitVec.xor_zero, testedBits_eight]

end Sys2Proof.Machine
end

section
/-!
The statements of 41_update.md on the values of crcByte: its corner cases, the mirrored mode, and the remainder over
GF(2).
-/

namespace Sys2Proof.Machine

/-! ## Corner cases -/

/-- A register of zeros stays so. -/
theorem crcSteps_zero_register (n : Nat) (poly : Byte) (mode : Mode) :
    crcSteps n 0x00#8 poly mode = 0x00#8 := by
  induction n with
  | zero => rfl
  | succ n ih =>
    have hstep : crcStep 0x00#8 poly mode = 0x00#8 := by cases mode <;> rfl
    rw [crcSteps_succ, hstep, ih]

/-- With the polynomial 0x00 the iterations are shifts. -/
theorem crcSteps_zero_poly (n : Nat) (w : Byte) (mode : Mode) :
    crcSteps n w 0x00#8 mode = mode.shift^[n] w := by
  induction n generalizing w with
  | zero => rfl
  | succ n ih =>
    have hstep : crcStep w 0x00#8 mode = mode.shift w := by rw [crcStep, BitVec.xor_zero, ite_self]
    rw [crcSteps_succ, hstep, ih, Function.iterate_succ_apply]

/-- Settles O41: the register is 0x00 after the XOR, or eight shifts empty it. -/
theorem updateCornerCases : Obligations.UpdateCornerCases := by
  refine ⟨fun c poly mode => ?_, fun c b mode => ?_⟩
  · rw [crcByte, BitVec.xor_self, crcSteps_zero_register]
  · rw [crcByte, crcSteps_zero_poly, Mode.shift_iterate_eight]

/-! ## The mirrored mode -/

/-- The reversal of a sum (R9, R80). -/
theorem rev8_xor (v w : Byte) : rev8 (v ^^^ w) = rev8 v ^^^ rev8 w := by
  apply BitVec.eq_of_getLsbD_eq
  intro i hi
  rw [BitVec.getLsbD_xor, getLsbD_rev8 _ hi, getLsbD_rev8 _ hi, getLsbD_rev8 _ hi, BitVec.getLsbD_xor]

/-- The reversal turns the one shift into the other. -/
theorem shift_reflected_rev8 (w : Byte) : Mode.reflected.shift (rev8 w) = rev8 (Mode.normal.shift w) := by
  revert w
  decide

/-- The reversal turns the one tested bit into the other (R23). -/
theorem testedBit_reflected_rev8 (w : Byte) : testedBit .reflected (rev8 w) = testedBit .normal w := by
  rw [testedBit_reflected, testedBit_normal, getLsbD_rev8 w (by decide)]

/-- One iteration in Reflected mode is the mirrored one in Normal mode (R105). -/
theorem crcStep_reflected_rev8 (w poly : Byte) :
    crcStep (rev8 w) (rev8 poly) .reflected = rev8 (crcStep w poly .normal) := by
  rw [crcStep, crcStep, testedBit_reflected_rev8, shift_reflected_rev8, ← rev8_xor, apply_ite rev8]

/-- Any number of iterations in Reflected mode are the mirrored ones in Normal mode (R105). -/
theorem crcSteps_reflected_rev8 (n : Nat) (w poly : Byte) :
    crcSteps n (rev8 w) (rev8 poly) .reflected = rev8 (crcSteps n w poly .normal) := by
  induction n generalizing w with
  | zero => rfl
  | succ n ih => rw [crcSteps_succ, crcStep_reflected_rev8, ih, crcSteps_succ]

/-- Settles O43: eight mirrored iterations; and the byte 0x01 under the polynomial 0x07, whose Reflected result is not
the Normal one reversed. -/
theorem reflectedModeIsTheMirroredNormalMode : Obligations.ReflectedModeIsTheMirroredNormalMode := by
  refine ⟨fun c poly b => ?_, 0x00#8, 0x07#8, 0x01#8, by decide⟩
  have hmirror := crcSteps_reflected_rev8 8 (rev8 c ^^^ rev8 b) (rev8 poly)
  rwa [rev8_rev8, rev8_xor, rev8_rev8, rev8_rev8] at hmirror

/-! ## The remainder over GF(2) -/

open Polynomial

/-- A byte as a polynomial over GF(2), bit `i` the coefficient of `X ^ i` (G1). -/
noncomputable def bytePoly (v : Byte) : (ZMod 2)[X] :=
  ∑ i ∈ Finset.range 8, if v.getLsbD i then X ^ i else 0

/-- A message as a polynomial, its first byte the most significant. -/
noncomputable def messagePoly (bs : List Byte) : (ZMod 2)[X] :=
  bs.foldl (fun m b => m * X ^ 8 + bytePoly b) 0

/-- The divisor: x^8 and the polynomial byte (G1). -/
noncomputable def divisorPoly (poly : Byte) : (ZMod 2)[X] := X ^ 8 + bytePoly poly

theorem messagePoly_concat (bs : List Byte) (b : Byte) :
    messagePoly (bs ++ [b]) = messagePoly bs * X ^ 8 + bytePoly b := by
  rw [messagePoly, List.foldl_concat]
  rfl

/-- XOR of bytes is the sum of polynomials. -/
theorem bytePoly_xor (v w : Byte) : bytePoly (v ^^^ w) = bytePoly v + bytePoly w := by
  rw [bytePoly, bytePoly, bytePoly, ← Finset.sum_add_distrib]
  refine Finset.sum_congr rfl fun i _ => ?_
  rw [BitVec.getLsbD_xor]
  cases v.getLsbD i <;> cases w.getLsbD i <;> simp [CharTwo.add_self_eq_zero]

/-- A byte's polynomial has degree below 8. -/
theorem degree_bytePoly_lt (v : Byte) : (bytePoly v).degree < 8 := by
  refine (Polynomial.degree_sum_le _ _).trans_lt ((Finset.sup_lt_iff (by decide)).mpr fun i hi => ?_)
  split
  · rw [degree_X_pow]
    exact_mod_cast Finset.mem_range.mp hi
  · rw [degree_zero]
    decide

/-- The divisor is monic. -/
theorem monic_divisorPoly (poly : Byte) : (divisorPoly poly).Monic :=
  monic_X_pow_add (degree_bytePoly_lt poly)

/-- The left shift is the product by X, less the bit shifted out. -/
theorem X_mul_bytePoly (w : Byte) :
    X * bytePoly w = bytePoly (w <<< 1) + if w.getLsbD 7 then X ^ 8 else 0 := by
  have hlow : (w <<< 1).getLsbD 0 = false := by simp
  have hbits : ∀ i ∈ Finset.range 7, X * (if w.getLsbD i then X ^ i else 0 : (ZMod 2)[X]) =
      if (w <<< 1).getLsbD (i + 1) then X ^ (i + 1) else 0 := by
    intro i hi
    have hlt : i + 1 < 8 := Nat.succ_lt_succ (Finset.mem_range.mp hi)
    have hbit : (w <<< 1).getLsbD (i + 1) = w.getLsbD i := by
      simp only [BitVec.getLsbD_shiftLeft, hlt, decide_true, Nat.add_sub_cancel]
      simp
    rw [hbit, mul_ite, mul_zero, pow_succ']
  rw [bytePoly, bytePoly, Finset.mul_sum, Finset.sum_range_succ, Finset.sum_range_succ' _ 7, hlow,
    Finset.sum_congr rfl hbits]
  simp [mul_ite, ← pow_succ']

/-- One iteration in Normal mode is the product by X, less the divisor where the tested bit is 1 (R100, G1). -/
theorem X_mul_bytePoly_crcStep (w poly : Byte) : X * bytePoly w =
    bytePoly (crcStep w poly .normal) + if w.getLsbD 7 then divisorPoly poly else 0 := by
  rw [X_mul_bytePoly, crcStep_normal]
  cases w.getLsbD 7 with
  | false => rfl
  | true =>
    have hcancel : bytePoly poly + bytePoly poly = 0 := CharTwo.add_self_eq_zero _
    simp only [if_true, bytePoly_xor, divisorPoly]
    linear_combination -hcancel

/-- `n` iterations in Normal mode multiply by X^n, modulo the divisor. -/
theorem mk_bytePoly_crcSteps (n : Nat) (w poly : Byte) :
    AdjoinRoot.mk (divisorPoly poly) (bytePoly (crcSteps n w poly .normal)) =
      AdjoinRoot.mk (divisorPoly poly) (X ^ n * bytePoly w) := by
  induction n generalizing w with
  | zero => rw [crcSteps_zero, pow_zero, one_mul]
  | succ n ih =>
    have hdvd : divisorPoly poly ∣ if w.getLsbD 7 then divisorPoly poly else 0 := by
      split
      · exact dvd_rfl
      · exact dvd_zero _
    have hstep : AdjoinRoot.mk (divisorPoly poly) (X * bytePoly w) =
        AdjoinRoot.mk (divisorPoly poly) (bytePoly (crcStep w poly .normal)) := by
      rw [X_mul_bytePoly_crcStep, map_add, AdjoinRoot.mk_eq_zero.mpr hdvd, add_zero]
    rw [crcSteps_succ, ih, pow_succ, mul_assoc, map_mul, map_mul, hstep]

/-- The bulk result in Normal mode, modulo the divisor: each byte of the message multiplies what came before it,
and itself, by X^8. -/
theorem mk_bytePoly_bulk (c poly : Byte) (bs : List Byte) :
    AdjoinRoot.mk (divisorPoly poly) (bytePoly (bulk c poly .normal bs)) =
      AdjoinRoot.mk (divisorPoly poly) (bytePoly c * X ^ (8 * bs.length) + messagePoly bs * X ^ 8) := by
  induction bs using List.reverseRecOn with
  | nil => simp [bulk, messagePoly]
  | append_singleton bs b ih =>
    rw [bulk_concat, crcByte, mk_bytePoly_crcSteps, bytePoly_xor, map_mul, map_add, ih, ← map_add, ← map_mul,
      messagePoly_concat, List.length_append, List.length_singleton]
    congr 1
    ring

/-- A byte's polynomial is its own remainder by the divisor. -/
theorem bytePoly_modByMonic (v poly : Byte) : bytePoly v %ₘ divisorPoly poly = bytePoly v := by
  refine (modByMonic_eq_self_iff (monic_divisorPoly poly)).mpr ?_
  have hpoly : (bytePoly poly).degree < (X ^ 8 : (ZMod 2)[X]).degree := by
    rw [degree_X_pow]
    exact degree_bytePoly_lt poly
  rw [divisorPoly, degree_add_eq_left_of_degree_lt hpoly, degree_X_pow]
  exact degree_bytePoly_lt v

/-- Settles O44: the bulk result has degree below the divisor's and is congruent to the dividend. -/
theorem bulkIsThePolynomialRemainder : Obligations.BulkIsThePolynomialRemainder := by
  intro c poly bs
  have hcongr := AdjoinRoot.mk_eq_mk.mp (mk_bytePoly_bulk c poly bs)
  exact (bytePoly_modByMonic _ poly).symm.trans (modByMonic_eq_of_dvd_sub (monic_divisorPoly poly) hcongr)

end Sys2Proof.Machine
end

section
/-!
The statements of 30_encoding.md on the assembler (R70 to R72): its forms, the source text of a command, LDRECIPE and
UPDN.
-/

namespace Sys2Proof.Machine

/-! ## Tokens of a line -/

/-- A word and, after a blank, whatever follows. -/
theorem lexLine_word_blank {m : List Char} (hm : ∀ c ∈ m, wordChar c = true) (rest : List Char) :
    lexLine (m ++ ' ' :: rest) (.plain []) = (lexLine rest (.plain [])).map (endWord m.reverse) := by
  rw [lexLine_word m [] _ hm, List.append_nil]
  simp [lexLine]

/-- A word at the end of a line. -/
theorem lexLine_last_word {x : List Char} (hx : ∀ c ∈ x, wordChar c = true) :
    lexLine x (.plain []) = .ok (endWord x.reverse []) := by
  have h := lexLine_word x [] [] hx
  rwa [List.append_nil, List.append_nil] at h

/-- A collected word that is not empty is a token. -/
theorem endWord_reverse {m : List Char} (hm : m ≠ []) (ts : List Token) :
    endWord m.reverse ts = .word m :: ts := by
  simp [endWord, hm]

/-- A mnemonic and one operand in a word of its own. -/
theorem assembleLine_word_word {m x : List Char} (hm : ∀ c ∈ m, wordChar c = true) (hm0 : m ≠ [])
    (hx : ∀ c ∈ x, wordChar c = true) (hx0 : x ≠ []) :
    assembleLine (m ++ ' ' :: x) = asmCommand m [.word x] := by
  refine assembleLine_of_tokens (ts := [.word x]) ?_ rfl
  rw [lexLine_word_blank hm, lexLine_last_word hx, endWord_reverse hx0, Except.map, endWord_reverse hm0]

/-! ## Numbers in hex -/

/-- `0x` and what follows it are characters of a word, if the digits are. -/
theorem wordChar_hexNumber {ds : List Char} (hds : ∀ c ∈ ds, wordChar c = true) :
    ∀ c ∈ '0' :: 'x' :: ds, wordChar c = true :=
  List.forall_mem_cons.mpr ⟨by decide, List.forall_mem_cons.mpr ⟨by decide, hds⟩⟩

/-- The two digits of a byte are characters of a word. -/
theorem wordChar_hexByte (b : Byte) : ∀ c ∈ hexByte b, wordChar c = true :=
  List.forall_iff_forall_mem.mp ⟨wordChar_hexDigit _, wordChar_hexDigit _⟩

/-- A byte written in hex is read back, where no name of the mnemonic is written so (R70). -/
theorem byteOperand_hexByte {names : List (List Char × Byte)} {b : Byte}
    (h : names.lookup ('0' :: 'x' :: hexByte b) = none) :
    byteOperand names (.word ('0' :: 'x' :: hexByte b)) = some b := by
  have hdigits : digitsValue 16 0 (hexByte b) = some b.toNat := by
    have hb := digitsValue_hexByte b 0 []
    rwa [List.append_nil, Nat.zero_mul, Nat.zero_add] at hb
  have hnumber : numberValue ('0' :: 'x' :: hexByte b) = some b.toNat := hdigits
  simp [byteOperand, h, hnumber, b.isLt]

/-! ## Commands -/

/-- A mnemonic that takes one byte operand, with an operand it reads (R70, R74). -/
theorem asmCommand_byteMnemonic {m : List Char} {names : List (List Char × Byte)} {make : Byte → Instr}
    {t : Token} {b : Byte} (hbare : bareMnemonics.lookup m = none)
    (hmnemonic : byteMnemonics.lookup m = some (names, make)) (ht : byteOperand names t = some b) :
    asmCommand m [t] = .ok [encode (make b)] := by
  simp only [asmCommand, hbare, hmnemonic, ht, Option.map_some]

/-- A mnemonic that takes one byte operand, with its operand in hex. -/
theorem assembleLine_byteMnemonic {m : List Char} {names : List (List Char × Byte)} {make : Byte → Instr}
    (hbare : bareMnemonics.lookup m = none) (hmnemonic : byteMnemonics.lookup m = some (names, make))
    (hm : ∀ c ∈ m, wordChar c = true) (hm0 : m ≠ []) {b : Byte}
    (hnames : names.lookup ('0' :: 'x' :: hexByte b) = none) :
    assembleLine (m ++ " 0x".toList ++ hexByte b) = .ok [encode (make b)] := by
  have hline : m ++ " 0x".toList ++ hexByte b = m ++ ' ' :: '0' :: 'x' :: hexByte b := List.append_assoc ..
  rw [hline, assembleLine_word_word hm hm0 (wordChar_hexNumber (wordChar_hexByte b)) (List.cons_ne_nil _ _),
    asmCommand_byteMnemonic hbare hmnemonic (byteOperand_hexByte hnames)]

/-- A mnemonic is a word. -/
theorem wordChar_mnemonicOf (i : Instr) : ∀ c ∈ mnemonicOf i, wordChar c = true := by
  have hall : (mnemonicOf i).all wordChar = true := by cases i <;> rfl
  exact List.all_eq_true.mp hall

theorem mnemonicOf_ne_nil (i : Instr) : mnemonicOf i ≠ [] := by
  cases i <;> exact List.cons_ne_nil _ _

/-- The source text of a command assembles to its word, if the assembler can write it (R70). -/
theorem assembleLine_sourceText {i : Instr} (h : takesNoOperand i = true → i.operand = 0x00#8) :
    assembleLine (sourceText i) = .ok [encode i] := by
  cases i with
  | nop imm | norm imm | fin imm | clrerr imm =>
    obtain rfl : imm = 0x00#8 := h rfl
    decide
  | ldinit | ldpoly | ldrefl | ldxor | ldmode | upd | rd =>
    exact assembleLine_byteMnemonic rfl rfl (wordChar_mnemonicOf _) (mnemonicOf_ne_nil _) rfl

/-- LDRECIPE with a recipe in hex assembles to that recipe's words (R71). -/
theorem assembleLine_ldRecipe (ii pp rr xx : Byte) :
    assembleLine ("LDRECIPE 0x".toList ++ hexByte ii ++ hexByte pp ++ hexByte rr ++ hexByte xx) =
      .ok (ldRecipe (ii ++ pp ++ rr ++ xx)) := by
  have hline : "LDRECIPE 0x".toList ++ hexByte ii ++ hexByte pp ++ hexByte rr ++ hexByte xx =
      "LDRECIPE".toList ++ ' ' :: '0' :: 'x' :: (hexByte ii ++ hexByte pp ++ hexByte rr ++ hexByte xx) := rfl
  have hdigits : ∀ c ∈ hexByte ii ++ hexByte pp ++ hexByte rr ++ hexByte xx, wordChar c = true := by
    simp only [List.forall_mem_append]
    exact ⟨⟨⟨wordChar_hexByte ii, wordChar_hexByte pp⟩, wordChar_hexByte rr⟩, wordChar_hexByte xx⟩
  have hm : ∀ c ∈ "LDRECIPE".toList, wordChar c = true := List.all_eq_true.mp rfl
  rw [hline, assembleLine_word_word hm (List.cons_ne_nil _ _) (wordChar_hexNumber hdigits) (List.cons_ne_nil _ _),
    asmCommand_ldRecipe (recipeOperand_hexBytes ii pp rr xx)]

/-- Settles O56, by the source text of each command and by LDRECIPE's operand of eight digits. -/
theorem assembleAndPrintAgree : Obligations.AssembleAndPrintAgree :=
  ⟨fun _ => assembleLine_sourceText, assembleLine_ldRecipe⟩

/-- Settles O55: fixed lines, assembled one by one. -/
theorem assemblerForms : Obligations.AssemblerForms := by
  refine ⟨?_, ?_, ?_, ?_, ?_, ?_, ?_, ?_, ?_, ?_, ?_, ?_, ?_, ?_, ?_, ?_, ?_, ?_, ?_, ?_, ?_, ?_, ?_⟩ <;> decide

/-! ## UPDN -/

/-- A string of ASCII characters is its codes (R70, R72). -/
theorem mapM_asciiByte {cs : List Char} (h : ∀ c ∈ cs, c.toNat < 128) :
    cs.mapM asciiByte = some (cs.map fun c => BitVec.ofNat 8 c.toNat) := by
  induction cs with
  | nil => rfl
  | cons c cs ih =>
    obtain ⟨hc, hcs⟩ := List.forall_mem_cons.mp h
    simp [List.mapM_cons, asciiByte, hc, ih hcs]

/-- UPDN with a string of ASCII characters (R72). -/
theorem assembleLine_updN_text {cs : List Char} (h : ∀ c ∈ cs, c.toNat < 128 ∧ c ≠ '"') :
    assembleLine ("UPDN \"".toList ++ cs ++ ['"']) = .ok (updN (cs.map fun c => BitVec.ofNat 8 c.toNat)) := by
  have hline : "UPDN \"".toList ++ cs ++ ['"'] = "UPDN".toList ++ ' ' :: '"' :: (cs ++ ['"']) := rfl
  have htext : lexLine ('"' :: (cs ++ ['"'])) (.plain []) = .ok [.text cs] := by
    simp [lexLine, lexLine_inText cs [] [] fun c hc => (h c hc).2, endWord, Except.map]
  have htokens : lexLine ("UPDN".toList ++ ' ' :: '"' :: (cs ++ ['"'])) (.plain []) =
      .ok [.word "UPDN".toList, .text cs] := by
    rw [lexLine_word_blank (List.all_eq_true.mp rfl), htext]
    rfl
  rw [hline, assembleLine_of_tokens htokens rfl, asmCommand_updN_text (mapM_asciiByte fun c hc => (h c hc).1)]

/-- Settles O52: UPDN maps its bytes to words, and a string is its codes. -/
theorem updnExpansion : Obligations.UpdnExpansion := by
  refine ⟨fun bs => ⟨List.length_map _, fun i => List.getElem?_map⟩, sendAll_nil, fun _ _ => List.map_append,
    fun cs h => ?_, by decide⟩
  rw [assembleLine_updN_text h, updN, List.map_map]
  rfl

end Sys2Proof.Machine
end

section
/-!
The statements of 70_reset_and_hazards.md: a whole checksum by either path, and the sequences that reverse a
normalized polynomial.
-/

namespace Sys2Proof.Machine

/-! ## Hazards -/

/-- Loads that leave a raw reflected recipe, then NORM: the polynomial is reversed, whatever it was before, and no
error is recorded (R163, R164). -/
theorem sendAll_loads_norm_reflected {is : List Instr} (his : ∀ i ∈ is, Loads i) {s : State}
    (hraw : (is.foldl loadField s).phase = .raw) (hmode : (is.foldl loadField s).mode = .reflected) :
    ∃ rs, sendAll (is.map encode ++ [0x1000#16]) s = .next (State.answered rs
      (((is.foldl loadField s).setPoly (rev8 (is.foldl loadField s).poly)).setPhase .ready)) := by
  obtain ⟨rs, hrs⟩ := sendAll_loads is his s
  obtain ⟨r, hr⟩ := send_norm_raw (rr := 0x01#8) (s := (is.foldl loadField s).answered rs) hraw hmode
  refine ⟨rs ++ [r], ?_⟩
  rw [sendAll_append hrs, sendAll_cons hr, sendAll_nil, ← State.answered_answered]
  rfl

/-- Settles O50: each sequence loads a recipe that is raw and reflected, and NORM reverses its polynomial. -/
theorem renormalizingHazards : Obligations.RenormalizingHazards := by
  refine ⟨fun s hmode _ => ?_, fun s p hmode => ?_, fun s p => ?_⟩
  · obtain ⟨rs, hrs⟩ := sendAll_loads_norm_reflected (is := [.ldrefl 0x01#8]) (s := s)
      (List.forall_iff_forall_mem.mp (.ldrefl 0x01#8)) rfl rfl
    exact ⟨_, hrs, rfl, rfl, rfl, rfl, rfl⟩
  · obtain ⟨rs, hrs⟩ := sendAll_loads_norm_reflected (is := [.ldpoly (rev8 p)]) (s := s)
      (List.forall_iff_forall_mem.mp (.ldpoly (rev8 p))) rfl hmode
    exact ⟨_, hrs, rev8_rev8 p, hmode, rfl, rfl, rfl⟩
  · obtain ⟨rs, hrs⟩ := sendAll_ldpoly_ldrefl_norm (rev8 p) s
    exact ⟨_, hrs, rev8_rev8 p, rfl, rfl, rfl, rfl⟩

/-! ## A whole checksum -/

/-- After any words that leave a READY recipe and the error record as it was: a message and FIN give the message's
result, in CRC and in FIN's response (R162). -/
theorem sendAll_checksum {ws : List CmdWord} {s u : State} (h : sendAll ws s = .next u)
    (hready : u.phase = .ready) (hrecord : SameErrorRecord s u) (msg : List Byte) :
    ∃ t, sendAll (ws ++ updN msg ++ [0x3000#16]) s = .next t ∧
      t.crc = bulk u.crc u.poly u.mode msg ^^^ u.xorout ∧
      t.responses.getLast? = some (statusOf t ++ t.crc) ∧ SameErrorRecord s t := by
  obtain ⟨rs, hrs, -, -⟩ := sendAll_updN_ready msg hready
  have hsend : sendAll (ws ++ updN msg ++ [0x3000#16]) s = .next (respondCrc
      (((u.setCrc (bulk u.crc u.poly u.mode msg)).answered rs).setCrc
        (bulk u.crc u.poly u.mode msg ^^^ u.xorout))) := by
    rw [List.append_assoc, sendAll_append h, sendAll_append hrs, sendAll_cons (send_fin _), sendAll_nil]
    rfl
  exact ⟨_, hsend, rfl, List.getLast?_concat, hrecord⟩

/-- The words of LDRECIPE, from any state (R71). -/
theorem sendAll_ldRecipe (ii pp rr xx : Byte) (s : State) :
    ∃ rs, sendAll (ldRecipe (ii ++ pp ++ rr ++ xx)) s = .next { s with
      crc := ii, poly := if rr = 0x00#8 then pp else rev8 pp, xorout := xx,
      mode := if rr = 0x00#8 then .normal else .reflected, phase := .ready,
      responses := s.responses ++ rs } := by
  obtain ⟨hii, hpp, hrr, hxx⟩ := recipe_fields ii pp rr xx
  rw [ldRecipe, hii, hpp, hrr, hxx]
  exact sendAll_recipeLoads_norm (.refl _) s

/-- Settles O57, by the READY recipe that either path loads. -/
theorem wholeChecksumByEitherPath : Obligations.WholeChecksumByEitherPath := by
  refine ⟨fun ii pp rr xx msg s => ?_, fun init pn m x msg s hm => ?_⟩
  · obtain ⟨rs, hrs⟩ := sendAll_ldRecipe ii pp rr xx s
    exact sendAll_checksum hrs rfl ⟨rfl, rfl⟩ msg
  · obtain ⟨rs, hrs⟩ := sendAll_ldVariant hm init pn x s
    exact sendAll_checksum hrs rfl ⟨rfl, rfl⟩ msg

end Sys2Proof.Machine
end
